-- ==== Sys2Proof/Word.lean ====
section
/-! DEFINITION. The value types of CORE (00_scope.md R10 to R12, 30_encoding.md R90). A `Time` (R12) is a `Nat`: a natural number of
nanoseconds, unbounded (decision D22). -/

namespace Sys2Proof

/-- An 8-bit unsigned value (R12). -/
abbrev Byte := BitVec 8

/-- A transaction word of exactly 64 bits (R90). -/
abbrev Word := BitVec 64

/-- The 48-bit operand field of a transaction word (R90). -/
abbrev Operand := BitVec 48

/-- A line level (R12, "boolean line levels"): `true` is level 1, `false` is level 0. -/
abbrev Level := Bool

/-- An index 0 to 5 of an input group (R12). -/
abbrev Index := Fin 6

end Sys2Proof
end

