-- ==== Sys2Proof/Config.lean ====
section
/-! DEFINITION. The implementation parameters of 00_scope.md R7, as plain data that one session is set up with (R8, R207),
and the values that the spec leaves open, which have no body here. The parameters that the document fixes (select codes,
`Q_TIGHT`) stand in Machine/Params.lean and Machine/Operands.lean. -/

namespace Sys2Proof

/-- The two values that `VTRIG_EDGE` may take (R7, R133). -/
inductive Polarity where
  | rising
  | falling
  deriving DecidableEq, Repr

/-- The two hardware bindings of the video channel (R7, R139). -/
inductive Variant where
  | a
  | b
  deriving DecidableEq, Repr

/-- The two elements whose address spaces reach CORE (R60 b and c). -/
inductive Side where
  | main
  | audio
  deriving DecidableEq, Repr

/-- The operations with a Byte operand, which a register write may be bound to (R62). -/
inductive WriteOp where
  | pselSelect
  | vidWdata
  | vidWcmd
  | audWcmd
  deriving DecidableEq, Repr

/-- The operations with a Level operand, which a control line may be bound to (R62). -/
inductive LineOp where
  | vidTrig
  | audWtrig
  | audReset
  | audIrq
  deriving DecidableEq, Repr

/-- One address window (R61). The register count is `2 ^ regBits` and the span `2 ^ (regBits + mirrorBits)`, so both are powers
of two and the count is not greater than the span, as R61 asks. -/
structure AdapterWindow where
  base       : Nat
  regBits    : Nat
  mirrorBits : Nat
  deriving DecidableEq, Repr, Inhabited

/-- A register of one of the three windows of a side. -/
structure RegRef where
  window : Fin 3
  reg    : Nat
  deriving DecidableEq, Repr

/-- A control line of an adapter: the side and window of the adapter, and the line's number there. -/
structure LineRef where
  side   : Side
  window : Fin 3
  line   : Nat
  deriving DecidableEq, Repr

/-- `BINDING` (R7, R62, R63): what a bus access or a driven control line stands for. The only read the document binds on the
main side is PSEL.READ, and on the audio side the port-input register, AUD.RLATCH. -/
structure Binding where
  mainWrites : List (RegRef × WriteOp)
  mainReads  : List RegRef
  audioReads : List RegRef
  lines      : List (LineRef × LineOp)
  deriving DecidableEq, Repr

/-- `MAIN_WIN[0..2]` and `AUD_WIN[0..2]` (R7). -/
structure Windows where
  main  : Vector AdapterWindow 3
  audio : Vector AdapterWindow 3
  deriving DecidableEq, Repr

/-- What a function of (cmd, data, x, y) may look at or give: one of its four arguments, or a constant. -/
inductive EngineArg where
  | cmd
  | data
  | x
  | y
  | const (b : Byte)
  deriving DecidableEq, Repr

/-- `ENGINE_XY` (R7, R134) as plain data: a tree of comparisons whose leaves give the new X and Y, or an uninterpreted total
function. Every total function of the four bytes is such a tree (`EngineXY.every_function`). Log 6. -/
inductive EngineXY where
  | give (newX newY : EngineArg)
  | ifEq (a b : EngineArg) (thenXY elseXY : EngineXY)
  | uninterpreted (n : Nat)
  deriving DecidableEq, Repr

/-- The identity function that the spec's test vectors use (R134). -/
def EngineXY.identity : EngineXY := .give .x .y

/-- The parameters of one session (R7, R8). `W_TIGHTEN` is `wTightenLess1 + 1` and `Q_DEFAULT` is `Q_TIGHT + qDefaultOver`, so that
the two bounds of R7 hold of every setup (log 5). -/
structure Setup where
  vtrigEdge           : Polarity
  variant             : Variant
  bindingA            : Option Binding
  bindingB            : Option Binding
  windows             : Windows
  engineXY            : EngineXY
  aresetRunLevel      : Level
  resetVx             : Byte
  resetVy             : Byte
  resetVcmd           : Byte
  resetVdata          : Byte
  resetVprev          : Byte
  resetVtrig          : Level
  resetAlatch         : Byte
  periodicResetEnable : Bool
  wTightenLess1       : Nat
  qDefaultOver        : Nat
  deriving DecidableEq, Repr

/-- The uninterpreted total functions of (cmd, data, x, y) (R134, decision D7). Nothing is assumed of them. Log 6. -/
opaque Config.engineXY : Nat → Byte → Byte → Byte → Byte → Byte × Byte

/-- `MAIN_WIN[i]` and `AUD_WIN[i]` of the default setup (OPEN in R7; R64: no address may be assumed). Log 21. -/
opaque Config.window : Side → Fin 3 → AdapterWindow

/-- The byte that the environment chooses for a read of an input group nobody has driven (R206 d, U12), fresh for each number.
Log 7. -/
opaque Config.freePin : Nat → Byte

/-- `W_TIGHTEN` of the default setup, less 1 (OPEN in R7). Log 5. -/
opaque Config.wTightenLess1 : Nat

/-- `Q_DEFAULT` of the default setup, less `Q_TIGHT` (OPEN in R7). Log 5. -/
opaque Config.qDefaultOver : Nat

/-- The defaults of R7; what R7 leaves OPEN without a default is an open value or is not supplied. Log 4. -/
def Setup.default : Setup where
  vtrigEdge := .rising
  variant := .a
  bindingA := none
  bindingB := none
  windows := ⟨Vector.ofFn (Config.window .main), Vector.ofFn (Config.window .audio)⟩
  engineXY := .uninterpreted 0
  aresetRunLevel := true
  resetVx := 0x00#8
  resetVy := 0x00#8
  resetVcmd := 0x00#8
  resetVdata := 0x00#8
  resetVprev := 0x00#8
  resetVtrig := false
  resetAlatch := 0x00#8
  periodicResetEnable := false
  wTightenLess1 := Config.wTightenLess1
  qDefaultOver := Config.qDefaultOver

end Sys2Proof
end

