-- ==== Sys2Proof/Syntax.lean ====
section
/-! DEFINITION. The eighteen operations of 30_encoding.md R93, one constructor per row of spec/opcode_table.json, with the operand
fields of their operand classes (R92). -/

namespace Sys2Proof

/-- One operation of CORE with its operand (R93). -/
inductive Instr where
  /-- PSEL.SELECT, class B (R120). -/
  | pselSelect (code : Byte)
  /-- PSEL.READ, class N (R121). -/
  | pselRead
  /-- VID.WDATA, class B (R130). -/
  | vidWdata (byte : Byte)
  /-- VID.WCMD, class B (R131). -/
  | vidWcmd (byte : Byte)
  /-- VID.TRIG, class L (R132). -/
  | vidTrig (level : Level)
  /-- VID.ESTATE, class N (R136). -/
  | vidEstate
  /-- AUD.WCMD, class B (R150). -/
  | audWcmd (byte : Byte)
  /-- AUD.WTRIG, class L (R152). -/
  | audWtrig (level : Level)
  /-- AUD.RESET, class L (R156). -/
  | audReset (level : Level)
  /-- AUD.RLATCH, class N (R158). -/
  | audRlatch
  /-- AUD.IRQ, class L (R160). -/
  | audIrq (level : Level)
  /-- SYN.TIGHTEN, class T: the unsigned number in the 48-bit field (R180). -/
  | synTighten (t : BitVec 48)
  /-- SYN.ADVANCE, class T (R186). -/
  | synAdvance (dt : BitVec 48)
  /-- SYN.GRAN, class N (R185). -/
  | synGran
  /-- SYS.RESET, class N (R200). -/
  | sysReset
  /-- SYS.SAVE, class N (R203). -/
  | sysSave
  /-- SYS.RESTORE, class I: the six Bytes of the save image (R204). -/
  | sysRestore (i0 i1 i2 i3 i4 i5 : Byte)
  /-- SYS.SETIN, class K: the 3-bit index field and the value (R206). -/
  | sysSetin (k : BitVec 3) (v : Byte)
  deriving DecidableEq, Repr

/-- The five agents that issue operations (R18). -/
inductive Agent where
  | main
  | audio
  | engine
  | sched
  | host
  deriving DecidableEq, Repr

end Sys2Proof
end

