-- ==== Sys2Proof/WellFormed.lean ====
section
/-! DEFINITION. Which operations with their operands are transactions: the extra conditions of 30_encoding.md R93. -/

namespace Sys2Proof

/-- The extra conditions of R92 and R93: `i0` at most 5 in class I, `k` at most 5 in class K. Every other operand is admitted at
every value of its field. -/
def Instr.wellFormed : Instr → Bool
  | .pselSelect _ => true
  | .pselRead => true
  | .vidWdata _ => true
  | .vidWcmd _ => true
  | .vidTrig _ => true
  | .vidEstate => true
  | .audWcmd _ => true
  | .audWtrig _ => true
  | .audReset _ => true
  | .audRlatch => true
  | .audIrq _ => true
  | .synTighten _ => true
  | .synAdvance _ => true
  | .synGran => true
  | .sysReset => true
  | .sysSave => true
  | .sysRestore i0 _ _ _ _ _ => i0.toNat ≤ 5
  | .sysSetin k _ => k.toNat ≤ 5

end Sys2Proof
end

