-- ==== Sys2Proof/Decode.lean ====
section
/-! DEFINITION. Decoding and encoding of transaction words (30_encoding.md R90 to R93, R98, R102): a total decoder that rejects by
name, the encoder, the byte form of a word (R65, R90), and the operation map of R93 as rows of pattern and mask. -/

namespace Sys2Proof

/-- Why a word spells no operation: the cases of R98. -/
inductive DecodeError where
  /-- `unit` is 5 to 15. -/
  | unassignedUnit
  /-- `fn` is unassigned in its unit. -/
  | unassignedFunction
  /-- `rsv` is not 0. -/
  | reservedNotZero
  /-- An operand bit outside the class's fields is not 0. -/
  | operandBitsNotZero
  /-- SYS.RESTORE with `i0` greater than 5. -/
  | restoreSelectorAbove5
  /-- SYS.SETIN with `k` equal to 6 or 7. -/
  | inputIndexAbove5
  /-- Fewer than eight bytes: not a transaction (R101). -/
  | truncated
  deriving DecidableEq, Repr

/-! ### The fields of a word (R90) -/

def unitField (w : Word) : BitVec 4 := w.extractLsb' 60 4
def fnField (w : Word) : BitVec 4 := w.extractLsb' 56 4
def rsvField (w : Word) : Byte := w.extractLsb' 48 8
def opndField (w : Word) : Operand := w.extractLsb' 0 48

/-- The word with these fields, `rsv` zero (R90). -/
def assembleWord (unit fn : BitVec 4) (opnd : Operand) : Word := unit ++ fn ++ 0#8 ++ opnd

/-- A level as a number of `n` bits. -/
def levelBits (n : Nat) (l : Level) : BitVec n := BitVec.ofNat n l.toNat

/-! ### Operand classes (R92) -/

def decodeN (i : Instr) (o : Operand) : Except DecodeError Instr :=
  if o = 0#48 then .ok i else .error .operandBitsNotZero

def decodeB (f : Byte → Instr) (o : Operand) : Except DecodeError Instr :=
  if o.extractLsb' 8 40 = 0#40 then .ok (f (o.extractLsb' 0 8)) else .error .operandBitsNotZero

def decodeL (f : Level → Instr) (o : Operand) : Except DecodeError Instr :=
  if o.extractLsb' 1 47 = 0#47 then .ok (f (o.getLsbD 0)) else .error .operandBitsNotZero

def decodeT (f : BitVec 48 → Instr) (o : Operand) : Except DecodeError Instr := .ok (f o)

def decodeI (f : Byte → Byte → Byte → Byte → Byte → Byte → Instr) (o : Operand) : Except DecodeError Instr :=
  if (o.extractLsb' 40 8).toNat ≤ 5 then
    .ok (f (o.extractLsb' 40 8) (o.extractLsb' 32 8) (o.extractLsb' 24 8) (o.extractLsb' 16 8) (o.extractLsb' 8 8)
      (o.extractLsb' 0 8))
  else .error .restoreSelectorAbove5

def decodeK (f : BitVec 3 → Byte → Instr) (o : Operand) : Except DecodeError Instr :=
  if o.extractLsb' 11 37 = 0#37 then
    if (o.extractLsb' 8 3).toNat ≤ 5 then .ok (f (o.extractLsb' 8 3) (o.extractLsb' 0 8)) else .error .inputIndexAbove5
  else .error .operandBitsNotZero

/-! ### The operand decoder of an operation, or why there is none (R93, R98) -/

def decodePsel (fn : Nat) : Except DecodeError (Operand → Except DecodeError Instr) :=
  match fn with
  | 0 => .ok (decodeB .pselSelect)
  | 1 => .ok (decodeN .pselRead)
  | _ => .error .unassignedFunction

def decodeVid (fn : Nat) : Except DecodeError (Operand → Except DecodeError Instr) :=
  match fn with
  | 0 => .ok (decodeB .vidWdata)
  | 1 => .ok (decodeB .vidWcmd)
  | 2 => .ok (decodeL .vidTrig)
  | 3 => .ok (decodeN .vidEstate)
  | _ => .error .unassignedFunction

def decodeAud (fn : Nat) : Except DecodeError (Operand → Except DecodeError Instr) :=
  match fn with
  | 0 => .ok (decodeB .audWcmd)
  | 1 => .ok (decodeL .audWtrig)
  | 2 => .ok (decodeL .audReset)
  | 3 => .ok (decodeN .audRlatch)
  | 4 => .ok (decodeL .audIrq)
  | _ => .error .unassignedFunction

def decodeSyn (fn : Nat) : Except DecodeError (Operand → Except DecodeError Instr) :=
  match fn with
  | 0 => .ok (decodeT .synTighten)
  | 1 => .ok (decodeT .synAdvance)
  | 2 => .ok (decodeN .synGran)
  | _ => .error .unassignedFunction

def decodeSys (fn : Nat) : Except DecodeError (Operand → Except DecodeError Instr) :=
  match fn with
  | 0 => .ok (decodeN .sysReset)
  | 1 => .ok (decodeN .sysSave)
  | 2 => .ok (decodeI .sysRestore)
  | 3 => .ok (decodeK .sysSetin)
  | _ => .error .unassignedFunction

/-- By unit number (R91). -/
def decodeFunction (unit fn : Nat) : Except DecodeError (Operand → Except DecodeError Instr) :=
  match unit with
  | 0 => decodePsel fn
  | 1 => decodeVid fn
  | 2 => decodeAud fn
  | 3 => decodeSyn fn
  | 4 => decodeSys fn
  | _ => .error .unassignedUnit

/-- The decoder of R102: total on 64-bit words. -/
def decode (w : Word) : Except DecodeError Instr :=
  match decodeFunction (unitField w).toNat (fnField w).toNat with
  | .error e => .error e
  | .ok f => if rsvField w = 0#8 then f (opndField w) else .error .reservedNotZero

/-! ### Encoding (R102: match | opnd, in the layout of R90) -/

/-- The unit and function numbers of an operation (R93). -/
def Instr.unitFn : Instr → BitVec 4 × BitVec 4
  | .pselSelect _ => (0#4, 0#4)
  | .pselRead => (0#4, 1#4)
  | .vidWdata _ => (1#4, 0#4)
  | .vidWcmd _ => (1#4, 1#4)
  | .vidTrig _ => (1#4, 2#4)
  | .vidEstate => (1#4, 3#4)
  | .audWcmd _ => (2#4, 0#4)
  | .audWtrig _ => (2#4, 1#4)
  | .audReset _ => (2#4, 2#4)
  | .audRlatch => (2#4, 3#4)
  | .audIrq _ => (2#4, 4#4)
  | .synTighten _ => (3#4, 0#4)
  | .synAdvance _ => (3#4, 1#4)
  | .synGran => (3#4, 2#4)
  | .sysReset => (4#4, 0#4)
  | .sysSave => (4#4, 1#4)
  | .sysRestore _ _ _ _ _ _ => (4#4, 2#4)
  | .sysSetin _ _ => (4#4, 3#4)

/-- The operand field of an operation (R92). -/
def Instr.operand : Instr → Operand
  | .pselSelect code => 0#40 ++ code
  | .pselRead => 0#48
  | .vidWdata byte => 0#40 ++ byte
  | .vidWcmd byte => 0#40 ++ byte
  | .vidTrig level => 0#47 ++ levelBits 1 level
  | .vidEstate => 0#48
  | .audWcmd byte => 0#40 ++ byte
  | .audWtrig level => 0#47 ++ levelBits 1 level
  | .audReset level => 0#47 ++ levelBits 1 level
  | .audRlatch => 0#48
  | .audIrq level => 0#47 ++ levelBits 1 level
  | .synTighten t => t
  | .synAdvance dt => dt
  | .synGran => 0#48
  | .sysReset => 0#48
  | .sysSave => 0#48
  | .sysRestore i0 i1 i2 i3 i4 i5 => i0 ++ i1 ++ i2 ++ i3 ++ i4 ++ i5
  | .sysSetin k v => 0#37 ++ k ++ v

/-- The word of an operation (R102). -/
def encode (i : Instr) : Word := assembleWord i.unitFn.1 i.unitFn.2 i.operand

/-! ### Words as bytes: bits 63:56 are the first byte (R90, decision D32) -/

def wordBytes (w : Word) : List Byte :=
  [w.extractLsb' 56 8, w.extractLsb' 48 8, w.extractLsb' 40 8, w.extractLsb' 32 8, w.extractLsb' 24 8, w.extractLsb' 16 8,
    w.extractLsb' 8 8, w.extractLsb' 0 8]

/-- Decodes the first eight bytes of a byte sequence and gives the rest with it. -/
def decodeBytes : List Byte → Except DecodeError (Instr × List Byte)
  | b0 :: b1 :: b2 :: b3 :: b4 :: b5 :: b6 :: b7 :: rest =>
    match decode (b0 ++ b1 ++ b2 ++ b3 ++ b4 ++ b5 ++ b6 ++ b7) with
    | .ok i => .ok (i, rest)
    | .error e => .error e
  | _ => .error .truncated

/-! ### The host's numbering of a word's bits -/

/-- The transaction word whose low `nbits` bits are those of `w` and whose other bits are 0. A transaction is one 64-bit word, so
the table's bit 0 is the word's bit 0 (log 20). -/
def tableWord (nbits w : Nat) : Word := BitVec.ofNat 64 (w % 2 ^ nbits)

/-- What the decoder reads from a word in the opcode table's numbering; no transaction is longer than 64 bits (R101). -/
def decodeTableWord (nbits w : Nat) : Option Instr :=
  if nbits ≤ 64 then (decode (tableWord nbits w)).toOption else none

/-! ### The operation map as rows (R93) -/

/-- The extra condition of a row of R93. -/
inductive ExtraCondition where
  | always
  /-- `opnd[47:40] <= 5` -/
  | selectorAtMost5
  /-- `opnd[10:8] <= 5` -/
  | indexAtMost5
  deriving DecidableEq, Repr

/-- One row of R93. -/
structure OpcodeRow where
  mnemonic : String
  pattern  : Word
  mask     : Word
  extra    : ExtraCondition
  issuer   : Agent
  deriving DecidableEq, Repr

def ExtraCondition.holds (c : ExtraCondition) (w : Word) : Bool :=
  match c with
  | .always => true
  | .selectorAtMost5 => (w.extractLsb' 40 8).toNat ≤ 5
  | .indexAtMost5 => (w.extractLsb' 8 3).toNat ≤ 5

/-- A word spells a row's operation (R93): `T & mask == match` and the extra condition. -/
def OpcodeRow.spells (r : OpcodeRow) (w : Word) : Bool := (w &&& r.mask == r.pattern) && r.extra.holds w

/-- The row of an operation (R93). -/
def Instr.row : Instr → OpcodeRow
  | .pselSelect _ => ⟨"PSEL.SELECT", 0x0000000000000000#64, 0xFFFFFFFFFFFFFF00#64, .always, .main⟩
  | .pselRead => ⟨"PSEL.READ", 0x0100000000000000#64, 0xFFFFFFFFFFFFFFFF#64, .always, .main⟩
  | .vidWdata _ => ⟨"VID.WDATA", 0x1000000000000000#64, 0xFFFFFFFFFFFFFF00#64, .always, .main⟩
  | .vidWcmd _ => ⟨"VID.WCMD", 0x1100000000000000#64, 0xFFFFFFFFFFFFFF00#64, .always, .main⟩
  | .vidTrig _ => ⟨"VID.TRIG", 0x1200000000000000#64, 0xFFFFFFFFFFFFFFFE#64, .always, .main⟩
  | .vidEstate => ⟨"VID.ESTATE", 0x1300000000000000#64, 0xFFFFFFFFFFFFFFFF#64, .always, .engine⟩
  | .audWcmd _ => ⟨"AUD.WCMD", 0x2000000000000000#64, 0xFFFFFFFFFFFFFF00#64, .always, .main⟩
  | .audWtrig _ => ⟨"AUD.WTRIG", 0x2100000000000000#64, 0xFFFFFFFFFFFFFFFE#64, .always, .main⟩
  | .audReset _ => ⟨"AUD.RESET", 0x2200000000000000#64, 0xFFFFFFFFFFFFFFFE#64, .always, .main⟩
  | .audRlatch => ⟨"AUD.RLATCH", 0x2300000000000000#64, 0xFFFFFFFFFFFFFFFF#64, .always, .audio⟩
  | .audIrq _ => ⟨"AUD.IRQ", 0x2400000000000000#64, 0xFFFFFFFFFFFFFFFE#64, .always, .audio⟩
  | .synTighten _ => ⟨"SYN.TIGHTEN", 0x3000000000000000#64, 0xFFFF000000000000#64, .always, .host⟩
  | .synAdvance _ => ⟨"SYN.ADVANCE", 0x3100000000000000#64, 0xFFFF000000000000#64, .always, .sched⟩
  | .synGran => ⟨"SYN.GRAN", 0x3200000000000000#64, 0xFFFFFFFFFFFFFFFF#64, .always, .sched⟩
  | .sysReset => ⟨"SYS.RESET", 0x4000000000000000#64, 0xFFFFFFFFFFFFFFFF#64, .always, .host⟩
  | .sysSave => ⟨"SYS.SAVE", 0x4100000000000000#64, 0xFFFFFFFFFFFFFFFF#64, .always, .host⟩
  | .sysRestore _ _ _ _ _ _ => ⟨"SYS.RESTORE", 0x4200000000000000#64, 0xFFFF000000000000#64, .selectorAtMost5, .host⟩
  | .sysSetin _ _ => ⟨"SYS.SETIN", 0x4300000000000000#64, 0xFFFFFFFFFFFFF800#64, .indexAtMost5, .host⟩

/-- One operation of each kind, in the order of R93. -/
def representatives : List Instr :=
  [.pselSelect 0#8, .pselRead, .vidWdata 0#8, .vidWcmd 0#8, .vidTrig false, .vidEstate, .audWcmd 0#8, .audWtrig false,
    .audReset false, .audRlatch, .audIrq false, .synTighten 0#48, .synAdvance 0#48, .synGran, .sysReset, .sysSave,
    .sysRestore 0#8 0#8 0#8 0#8 0#8 0#8, .sysSetin 0#3 0#8]

/-- The eighteen rows of R93, in its order. -/
def opcodeRows : List OpcodeRow := representatives.map Instr.row

/-- The agent that may issue an operation (R93, R225). -/
def Instr.issuer (i : Instr) : Agent := i.row.issuer

end Sys2Proof
end

