-- ==== Sys2Proof/Machine/State.lean ====
section
/-! DEFINITION. The state of CORE (10_state.md R20 to R47), the input pins and the session's parameters beside it, the arrived inputs,
the reasons a step can stop, and the state after reset. -/

namespace Sys2Proof.Machine

/-- The level of the audio element's reset line (R34). -/
inductive ResetLine where
  | asserted
  | released
  deriving DecidableEq, Repr

/-- The state of the audio handshake (R12, R35). -/
inductive AState where
  | audioHalted
  | awaitingAck
  | idle
  deriving DecidableEq, Repr

/-- The events of `OUT` (R44). -/
inductive Event where
  | draw (cmd data prev : Byte)
  | timerReset
  | tighten (g : Nat)
  | sessionReset
  deriving DecidableEq, Repr

/-- A tightening request in force (R40): a granularity and an expiry time. -/
structure Tightening where
  gran   : Nat
  expiry : Nat
  deriving DecidableEq, Repr

/-- What an operation returns to its issuer (`result v` of R13). -/
inductive OpResult where
  | none
  /-- PSEL.READ and AUD.RLATCH. -/
  | byte (v : Byte)
  /-- VID.ESTATE, 40 bits. -/
  | video (v : BitVec 40)
  /-- SYN.GRAN. -/
  | time (t : Nat)
  /-- SYS.SAVE, 48 bits. -/
  | image (v : BitVec 48)
  deriving DecidableEq, Repr

/-- What the outside gives CORE (R60 a to c, R62): a transaction word, an access on a bus or a driven control line of an adapter, or
the turn of a held audio element to go on with what it holds (R223); where that turn falls among the arrivals is the scheduler's
choice (R71). Log 1, 2. -/
inductive Input where
  | word (w : Word)
  | memWrite (side : Side) (address : Nat) (v : Byte)
  | memRead (side : Side) (address : Nat)
  | line (l : LineRef) (level : Level)
  | resume
  deriving DecidableEq, Repr

/-- CORE raises no fault: "never a reported fault, never a crash" (R220, R221). So there is none. Log 28. -/
inductive Fault : Type
  deriving DecidableEq, Repr

/-- Why the model refuses a step; each is a refusal that the spec itself asks of a model. All are safe: the run stops. -/
inductive Refusal where
  /-- An instruction without a meaning, raised by an arm of `exec` only; no arm of this model raises it. Safe. -/
  | notModelled (mnemonic : String)
  /-- Raised by fetching a word that spells no operation (R98, D29): "the model refuses it". Safe. -/
  | notATransaction (e : DecodeError)
  /-- Raised by SYS.RESTORE and SYS.SETIN for an index above 5, which no decoded word carries (R98, D11). Safe. -/
  | indexAbove5
  /-- Raised by fetching in a session with `PERIODIC_RESET_ENABLE` true (R237, U3): "must refuse". Safe. -/
  | periodicResetEnabled
  /-- Raised by fetching a bus access or driven line when the variant's `BINDING` is not supplied: "must refuse" (R139, D26, U2). Safe. -/
  | bindingNotSupplied
  deriving DecidableEq, Repr

/-- The state: the fifteen elements of R20, then what stands beside CORE (pins, parameters, arrived inputs, held operations), then
the model's own two fields. -/
structure State where
  psel      : Index
  vx        : Byte
  vy        : Byte
  vcmd      : Byte
  vdata     : Byte
  vprev     : Byte
  vtrig     : Level
  alatch    : Byte
  areset    : ResetLine
  airq      : Level
  astate    : AState
  windows   : List Tightening
  now       : Nat
  drift     : Bool
  out       : List Event
  /-- The input groups `IN[0..5]`; `none` is a group that has never been driven (R29, R206 d). Log 7. -/
  pins      : Vector (Option Byte) 6
  /-- The parameters the session was set up with (R8, R36). Log 4. -/
  setup     : Setup
  /-- The inputs that have arrived and are not yet performed, in the order of arrival (R70). Log 1. -/
  inbox     : List Input
  /-- The operations of a held agent, in the order it issues them (R223). Log 2. -/
  held      : List Instr
  /-- What the last performed operation returned. The model's own field, log 3. -/
  result    : OpResult
  /-- How many reads of undriven groups there have been. The model's own field, log 7. -/
  freeCount : Nat
  deriving DecidableEq, Repr

/-- What fetching finds: nothing to do, an operation to perform and the state it is performed in, an input that is no
operation of CORE, or a refusal. -/
inductive Fetched where
  | idle
  | operation (i : Instr) (s : State)
  | noOperation (s : State)
  | refused (r : Refusal)
  deriving DecidableEq, Repr

/-- The state at the start of the first session with these parameters (R46, R201): `NOW` 0, `OUT` just `SessionReset`, the pins
undriven, and nothing arrived. Log 9, 10, 25. -/
def State.powerOn (p : Setup) : State where
  psel := 0
  vx := p.resetVx
  vy := p.resetVy
  vcmd := p.resetVcmd
  vdata := p.resetVdata
  vprev := p.resetVprev
  vtrig := p.resetVtrig
  alatch := p.resetAlatch
  areset := .asserted
  airq := false
  astate := .audioHalted
  windows := []
  now := 0
  drift := false
  out := [.sessionReset]
  pins := Vector.replicate 6 none
  setup := p
  inbox := []
  held := []
  result := .none
  freeCount := 0

/-- The power-on state with the default parameters of R7. -/
def State.reset : State := State.powerOn Setup.default

end Sys2Proof.Machine
end

