-- ==== Sys2Proof/Machine/Params.lean ====
section
/-! DEFINITION. What the rules read of the parameters (00_scope.md R7): the values the document fixes and the ones a session carries. -/

namespace Sys2Proof.Machine

/-- `Q_TIGHT`: 10 microseconds (R7, R182). -/
def qTight : Nat := 10000

/-- `W_TIGHTEN`, finite and greater than 0 (R7). Log 5. -/
def wTighten (p : Setup) : Nat := p.wTightenLess1 + 1

/-- `Q_DEFAULT`, at least `Q_TIGHT` (R7). Log 5. -/
def qDefault (p : Setup) : Nat := qTight + p.qDefaultOver

/-- The value of an argument of `ENGINE_XY`. -/
def engineArg (a : EngineArg) (c d x y : Byte) : Byte :=
  match a with
  | .cmd => c
  | .data => d
  | .x => x
  | .y => y
  | .const b => b

/-- The function of `ENGINE_XY` (R134). Log 6. -/
def engineXY (e : EngineXY) (c d x y : Byte) : Byte × Byte :=
  match e with
  | .give newX newY => (engineArg newX c d x y, engineArg newY c d x y)
  | .ifEq a b t e => if engineArg a c d x y = engineArg b c d x y then engineXY t c d x y else engineXY e c d x y
  | .uninterpreted n => Config.engineXY n c d x y

/-- `VARIANT` selects between the two values of `BINDING` (R139). -/
def sessionBinding (p : Setup) : Option Binding :=
  match p.variant with
  | .a => p.bindingA
  | .b => p.bindingB

end Sys2Proof.Machine
end

