-- ==== Sys2Proof/Machine/Flags.lean ====
section
/-! DEFINITION. Edges of lines (00_scope.md R13, R14): computed from the stored and the new level, never assumed. -/

namespace Sys2Proof.Machine

/-- The three values of `edge(p, n)` (R13). -/
inductive Edge where
  | rising
  | falling
  | none
  deriving DecidableEq, Repr

/-- `edge(p, n)` (R13): `Rising` if p is 0 and n is 1, `Falling` if p is 1 and n is 0, `None` if they are equal. -/
def edge (p n : Level) : Edge :=
  match p, n with
  | false, true => .rising
  | true, false => .falling
  | false, false => .none
  | true, true => .none

/-- The edge that `VTRIG_EDGE` names (R133). -/
def activeEdge (p : Setup) : Edge :=
  match p.vtrigEdge with
  | .rising => .rising
  | .falling => .falling

/-- Whether driving the video trigger line to this level makes the active edge (R132, R133). -/
def isActiveEdge (s : State) (level : Level) : Bool := edge s.vtrig level = activeEdge s.setup

end Sys2Proof.Machine
end

