-- ==== Sys2Proof/Machine/Operands.lean ====
section
/-! DEFINITION. How operands and results are laid out: the select codes (30_encoding.md R94), the audio latch (R95), the run level
(R96), the save image (R97, 44_session.md R202) and the engine's view (41_video_channel.md R136). -/

namespace Sys2Proof.Machine

/-- `SELCODE[k]` (R7, R94): 0x80 is index 4 and 0x40 is index 5. -/
def selectCode (k : Index) : Byte :=
  match k with
  | 0 => 0x01#8
  | 1 => 0x02#8
  | 2 => 0x04#8
  | 3 => 0x08#8
  | 4 => 0x80#8
  | 5 => 0x40#8

/-- The index that a select code chooses; the comparison is on the whole byte (R94, R120). -/
def selectIndex (code : Byte) : Option Index :=
  if code = 0x01#8 then some 0
  else if code = 0x02#8 then some 1
  else if code = 0x04#8 then some 2
  else if code = 0x08#8 then some 3
  else if code = 0x80#8 then some 4
  else if code = 0x40#8 then some 5
  else none

/-- `merge(old, new, mask)` on 8 bits (R13). -/
def merge (old new mask : Byte) : Byte := (old &&& ~~~mask) ||| (new &&& mask)

/-- The latch after a command write: the low 7 bits are the byte's (R95, R150). -/
def latchWithCommand (latch byte : Byte) : Byte := merge latch byte 0x7F#8

/-- The latch after a trigger write: bit 7 is the level (R95, R152). -/
def latchWithTrigger (latch : Byte) (level : Level) : Byte := merge latch (levelBits 8 level <<< 7) 0x80#8

/-- The trigger flag `ALATCH.TRIG`, bit 7 (R27, R30). -/
def latchTrigger (latch : Byte) : Level := latch.getLsbD 7

/-- The command `ALATCH.CMD`, bits 6:0 (R27). -/
def latchCommand (latch : Byte) : BitVec 7 := latch.extractLsb' 0 7

/-- What a level operand of AUD.RESET means (R96, R156). -/
def resetLineOf (p : Setup) (level : Level) : ResetLine :=
  if level = p.aresetRunLevel then .released else .asserted

/-- An index operand of a field that may hold more than 5 (R92). -/
def indexOf (n : Nat) : Option Index := if h : n < 6 then some ⟨n, h⟩ else none

/-- The save image (R202): six bytes, `PSEL` in bits 47:40 and `VPREV` in bits 7:0. -/
def saveImage (s : State) : BitVec 48 := BitVec.ofNat 8 s.psel.val ++ s.vx ++ s.vy ++ s.vcmd ++ s.vdata ++ s.vprev

/-- The SYS.RESTORE whose operand is this image (R97, R204). -/
def restoreOf (m : BitVec 48) : Instr :=
  .sysRestore (m.extractLsb' 40 8) (m.extractLsb' 32 8) (m.extractLsb' 24 8) (m.extractLsb' 16 8) (m.extractLsb' 8 8)
    (m.extractLsb' 0 8)

/-- The engine's view (R136): `VX` in bits 39:32, `VPREV` in bits 7:0. -/
def engineView (s : State) : BitVec 40 := s.vx ++ s.vy ++ s.vcmd ++ s.vdata ++ s.vprev

end Sys2Proof.Machine
end

