-- ==== Sys2Proof/Machine/Ops.lean ====
section
/-! DEFINITION. The shared operations of the rules: completing, ignoring, holding, events, tightening windows, delivery, the audio
handshake and session reset. CORE takes no exception and returns from none (60_exceptions.md R220, R228), so what stands in
the place of exception entry is `hold` (R223). -/

namespace Sys2Proof.Machine

/-- The outcome type of every meaning. -/
abbrev Result := Host.Outcome State Fault Refusal

/-! ### How an operation ends (R13) -/

/-- The operation is done and returns nothing. -/
def complete (s : State) : Result := .next { s with result := .none }

/-- `result v`: the operation is done and returns `v` to its issuer. -/
def returns (v : OpResult) (s : State) : Result := .next { s with result := v }

/-- `ignore`: the operation completes and changes no state (R13, R99, R221). -/
def ignore (s : State) : Result := complete s

/-- `hold`: the operation is not enabled; its issuer keeps it until the hold is lifted, and no element changes (R13, R223). Log 2. -/
def hold (i : Instr) (s : State) : Result := .next { s with held := s.held ++ [i] }

/-! ### Events (R44) -/

def emit (e : Event) (s : State) : State := { s with out := s.out ++ [e] }

/-! ### Tightening windows (R40, R181, R184) -/

/-- The order in which `windows` lists its members: by expiry, then by granularity. Log 8. -/
def tighteningLe (a b : Tightening) : Bool := a.expiry < b.expiry || (a.expiry == b.expiry && a.gran ≤ b.gran)

/-- Adds one member to the multiset `WINDOWS`, keeping its list in order; an equal member is added again (R40). -/
def insertTightening (w : Tightening) : List Tightening → List Tightening
  | [] => [w]
  | v :: vs => if tighteningLe w v then w :: v :: vs else v :: insertTightening w vs

/-- The procedure `tighten(g)` (R181). -/
def tighten (g : Nat) (s : State) : State :=
  { s with
    out := s.out ++ [.tighten g]
    windows := insertTightening ⟨g, s.now + wTighten s.setup⟩ s.windows }

/-- A window is in force while `NOW < e` (R184). -/
def inForce (now : Nat) (w : Tightening) : Bool := now < w.expiry

/-- The least of `d` and the granularities of a list. -/
def leastGran (d : Nat) : List Tightening → Nat
  | [] => d
  | w :: ws => min w.gran (leastGran d ws)

/-- The granularity in force, `gran(S)` (R184). -/
def gran (s : State) : Nat := leastGran (qDefault s.setup) (s.windows.filter (inForce s.now))

/-- One burst of `dt` nanoseconds (R186): lateness is judged before time moves, then expired windows go. -/
def advance (dt : Nat) (s : State) : State :=
  { s with
    drift := s.drift || decide (gran s < dt)
    now := s.now + dt
    windows := s.windows.filter (inForce (s.now + dt)) }

/-! ### Delivery (R134) -/

/-- `deliver()`: emits the pair with the old previous value, lets the engine's function move X and Y, and records the command. -/
def deliver (s : State) : State :=
  { s with
    out := s.out ++ [.draw s.vcmd s.vdata s.vprev]
    vx := (engineXY s.setup.engineXY s.vcmd s.vdata s.vx s.vy).1
    vy := (engineXY s.setup.engineXY s.vcmd s.vdata s.vx s.vy).2
    vprev := s.vcmd }

/-- Drives the video trigger line to a level (R132). -/
def driveTrigger (level : Level) (s : State) : State :=
  if isActiveEdge s level then deliver { s with vtrig := level } else { s with vtrig := level }

/-! ### The audio handshake (R151, R156, R158, R160) -/

/-- Writes the audio latch and notes the write (R150 to R152): in `Idle`, a change of the latch's value moves to `AwaitingAck`. -/
def writeLatch (new : Byte) (s : State) : State :=
  { s with
    alatch := new
    astate := if s.astate = .idle ∧ new ≠ s.alatch then .awaitingAck else s.astate }

/-- The assert transition of the audio reset line (R156). -/
def assertReset (s : State) : State := { s with areset := .asserted, astate := .audioHalted, airq := false }

/-- The release transition (R156): `TimerReset`, then the tightening request, in one step. -/
def releaseReset (s : State) : State :=
  { tighten qTight (emit .timerReset { s with areset := .released }) with astate := .awaitingAck }

/-- Drives the audio reset line; only a transition has an effect (R156). -/
def driveReset (new : ResetLine) (s : State) : State :=
  match s.areset, new with
  | .released, .asserted => assertReset s
  | .asserted, .released => releaseReset s
  | .asserted, .asserted => s
  | .released, .released => s

/-- The audio element observes the latch (R158): `AwaitingAck` moves to `Idle`. -/
def observeLatch (s : State) : State :=
  { s with astate := if s.astate = .awaitingAck then .idle else s.astate }

/-- Drives the audio element's interrupt line (R160): a rising edge requests tightening. -/
def driveIrq (level : Level) (s : State) : State :=
  if edge s.airq level = .rising then tighten qTight { s with airq := level } else { s with airq := level }

/-! ### Session reset (R200) -/

/-- What SYS.RESET writes: every element but `NOW`, with `SessionReset` appended to `OUT`; the pins and parameters stay. -/
def sessionReset (s : State) : State :=
  { s with
    psel := 0
    vx := s.setup.resetVx
    vy := s.setup.resetVy
    vcmd := s.setup.resetVcmd
    vdata := s.setup.resetVdata
    vprev := s.setup.resetVprev
    vtrig := s.setup.resetVtrig
    alatch := s.setup.resetAlatch
    areset := .asserted
    astate := .audioHalted
    airq := false
    windows := []
    drift := false
    out := s.out ++ [.sessionReset] }

end Sys2Proof.Machine
end

