-- ==== Sys2Proof/Machine/Aud.lean ====
section
/-! DEFINITION. The meanings of the Audio Command Channel's operations (42_audio_channel.md). -/

namespace Sys2Proof.Machine

/-- AUD.WCMD (R150): takes effect whatever the reset line is. -/
def execAudWcmd (byte : Byte) (s : State) : Result := complete (writeLatch (latchWithCommand s.alatch byte) s)

/-- AUD.WTRIG (R152). -/
def execAudWtrig (level : Level) (s : State) : Result := complete (writeLatch (latchWithTrigger s.alatch level) s)

/-- AUD.RESET (R156). -/
def execAudReset (level : Level) (s : State) : Result := complete (driveReset (resetLineOf s.setup level) s)

/-- AUD.RLATCH (R158): held while the reset line is asserted (R157). -/
def execAudRlatch (s : State) : Result :=
  match s.areset with
  | .asserted => hold .audRlatch s
  | .released => returns (.byte s.alatch) (observeLatch s)

/-- AUD.IRQ (R160): held while the reset line is asserted (R157). -/
def execAudIrq (level : Level) (s : State) : Result :=
  match s.areset with
  | .asserted => hold (.audIrq level) s
  | .released => complete (driveIrq level s)

end Sys2Proof.Machine
end

