-- ==== Sys2Proof/Machine/Outputs.lean ====
section
/-! DEFINITION. The output lines of CORE, functions of the state (10_state.md R37, 42_audio_channel.md R161). -/

namespace Sys2Proof.Machine

/-- `A_CPU_RESET`. -/
def aCpuReset (s : State) : Level := s.areset = .asserted

/-- `A_TIMER_RESET`. -/
def aTimerReset (s : State) : Level := s.areset = .asserted

/-- `MAIN_IRQ`. -/
def mainIrq (s : State) : Level := s.airq

/-- `PORT_DATA`: the selected group's pins; `none` while nobody has driven that group. -/
def portData (s : State) : Option Byte := s.pins[s.psel]

/-- `A_PORT_IN`. -/
def aPortIn (s : State) : Byte := s.alatch

/-- `GRAN`. -/
def granLine (s : State) : Nat := gran s

end Sys2Proof.Machine
end

