-- ==== Sys2Proof/Machine/Psel.lean ====
section
/-! DEFINITION. The meanings of the Port Selector's operations (40_port_selector.md). -/

namespace Sys2Proof.Machine

/-- PSEL.SELECT (R120): one of the six codes sets the selector; any other code is ignored. -/
def execPselSelect (code : Byte) (s : State) : Result :=
  match selectIndex code with
  | some k => complete { s with psel := k }
  | none => ignore s

/-- PSEL.READ (R121): the selected group's value now; an undriven group gives a fresh arbitrary byte (R206 d, U12). Log 7. -/
def execPselRead (s : State) : Result :=
  match portData s with
  | some v => returns (.byte v) s
  | none => returns (.byte (Config.freePin s.freeCount)) { s with freeCount := s.freeCount + 1 }

end Sys2Proof.Machine
end

