-- ==== Sys2Proof/Machine/Syn.lean ====
section
/-! DEFINITION. The meanings of the Interleave Synchronizer's operations (43_synchronizer.md). -/

namespace Sys2Proof.Machine

/-- SYN.TIGHTEN (R180): 0 is ignored. -/
def execSynTighten (t : BitVec 48) (s : State) : Result :=
  if t.toNat = 0 then ignore s else complete (tighten t.toNat s)

/-- SYN.ADVANCE (R186). -/
def execSynAdvance (dt : BitVec 48) (s : State) : Result := complete (advance dt.toNat s)

/-- SYN.GRAN (R185). -/
def execSynGran (s : State) : Result := returns (.time (gran s)) s

end Sys2Proof.Machine
end

