-- ==== Sys2Proof/Machine/Sys.lean ====
section
/-! DEFINITION. The meanings of the session operations (44_session.md). -/

namespace Sys2Proof.Machine

/-- SYS.RESET (R200). -/
def execSysReset (s : State) : Result := complete (sessionReset s)

/-- SYS.SAVE (R203). -/
def execSysSave (s : State) : Result := returns (.image (saveImage s)) s

/-- SYS.RESTORE (R204): the index is written directly. An index above 5 is no transaction (R98, D11). Log 19. -/
def execSysRestore (i0 i1 i2 i3 i4 i5 : Byte) (s : State) : Result :=
  match indexOf i0.toNat with
  | some k => complete { s with psel := k, vx := i1, vy := i2, vcmd := i3, vdata := i4, vprev := i5 }
  | none => .refused .indexAbove5

/-- SYS.SETIN (R206): drives one input group. An index above 5 is no transaction (R98). Log 19. -/
def execSysSetin (k : BitVec 3) (v : Byte) (s : State) : Result :=
  match indexOf k.toNat with
  | some j => complete { s with pins := s.pins.set j (some v) }
  | none => .refused .indexAbove5

end Sys2Proof.Machine
end

