-- ==== Sys2Proof/Machine/Vid.lean ====
section
/-! DEFINITION. The meanings of the Drawing-Engine Command Channel's operations (41_video_channel.md). -/

namespace Sys2Proof.Machine

/-- VID.WDATA (R130). -/
def execVidWdata (byte : Byte) (s : State) : Result := complete { s with vdata := byte }

/-- VID.WCMD (R131). -/
def execVidWcmd (byte : Byte) (s : State) : Result := complete { s with vcmd := byte }

/-- VID.TRIG (R132 to R135). -/
def execVidTrig (level : Level) (s : State) : Result := complete (driveTrigger level s)

/-- VID.ESTATE (R136). -/
def execVidEstate (s : State) : Result := returns (.video (engineView s)) s

end Sys2Proof.Machine
end

