-- ==== Sys2Proof/Machine/Dispatch.lean ====
section
/-! DEFINITION. One arm per operation of 30_encoding.md R93. -/

namespace Sys2Proof.Machine

def exec (i : Instr) (s : State) : Host.Outcome State Fault Refusal :=
  match i with
  | .pselSelect code => Sys2Proof.Machine.execPselSelect code s
  | .pselRead => Sys2Proof.Machine.execPselRead s
  | .vidWdata byte => Sys2Proof.Machine.execVidWdata byte s
  | .vidWcmd byte => Sys2Proof.Machine.execVidWcmd byte s
  | .vidTrig level => Sys2Proof.Machine.execVidTrig level s
  | .vidEstate => Sys2Proof.Machine.execVidEstate s
  | .audWcmd byte => Sys2Proof.Machine.execAudWcmd byte s
  | .audWtrig level => Sys2Proof.Machine.execAudWtrig level s
  | .audReset level => Sys2Proof.Machine.execAudReset level s
  | .audRlatch => Sys2Proof.Machine.execAudRlatch s
  | .audIrq level => Sys2Proof.Machine.execAudIrq level s
  | .synTighten t => Sys2Proof.Machine.execSynTighten t s
  | .synAdvance dt => Sys2Proof.Machine.execSynAdvance dt s
  | .synGran => Sys2Proof.Machine.execSynGran s
  | .sysReset => Sys2Proof.Machine.execSysReset s
  | .sysSave => Sys2Proof.Machine.execSysSave s
  | .sysRestore i0 i1 i2 i3 i4 i5 => Sys2Proof.Machine.execSysRestore i0 i1 i2 i3 i4 i5 s
  | .sysSetin k v => Sys2Proof.Machine.execSysSetin k v s

end Sys2Proof.Machine
end

