-- ==== Sys2Proof/Machine/Bus.lean ====
section
/-! DEFINITION. The bus view of an operation (20_memory.md R60 to R63): mirrored windows, and the operation that a bus access or a
driven control line stands for through `BINDING`. Log 21. -/

namespace Sys2Proof.Machine

/-- The register that an address reaches in a window (R61): `(a - B) & (N - 1)` inside the span, nothing outside it. -/
def windowRegister (w : AdapterWindow) (a : Nat) : Option Nat :=
  if w.base ≤ a ∧ a < w.base + 2 ^ (w.regBits + w.mirrorBits) then some ((a - w.base) &&& (2 ^ w.regBits - 1)) else none

/-- The first of a side's three windows that an address lies in, with the register reached. -/
def busRegister (ws : Vector AdapterWindow 3) (a : Nat) : Option RegRef :=
  match windowRegister ws[0] a, windowRegister ws[1] a, windowRegister ws[2] a with
  | some r, _, _ => some ⟨0, r⟩
  | none, some r, _ => some ⟨1, r⟩
  | none, none, some r => some ⟨2, r⟩
  | none, none, none => none

/-- The first entry of a binding table for a key. -/
def boundTo {α β : Type} [DecidableEq α] (key : α) : List (α × β) → Option β
  | [] => none
  | (k, v) :: rest => if k = key then some v else boundTo key rest

/-- The operation of a bound register write (R62). -/
def writeOperation (op : WriteOp) (v : Byte) : Instr :=
  match op with
  | .pselSelect => .pselSelect v
  | .vidWdata => .vidWdata v
  | .vidWcmd => .vidWcmd v
  | .audWcmd => .audWcmd v

/-- The operation of a bound control line (R62). -/
def lineOperation (op : LineOp) (level : Level) : Instr :=
  match op with
  | .vidTrig => .vidTrig level
  | .audWtrig => .audWtrig level
  | .audReset => .audReset level
  | .audIrq => .audIrq level

/-- The operation of an access by the main element (R62). -/
def mainWriteOperation (b : Binding) (r : RegRef) (v : Byte) : Option Instr :=
  (boundTo r b.mainWrites).map (writeOperation · v)

def mainReadOperation (b : Binding) (r : RegRef) : Option Instr := if r ∈ b.mainReads then some .pselRead else none

/-- The one register of the audio element's space that concerns CORE is the port-input register (R63). -/
def audioReadOperation (b : Binding) (r : RegRef) : Option Instr := if r ∈ b.audioReads then some .audRlatch else none

/-- The operation that a bus access or a driven line stands for with these windows and this binding, if any. -/
def accessOperation (ws : Windows) (b : Binding) : Input → Option Instr
  | .word _ => none
  | .memWrite .main a v => (busRegister ws.main a).bind (mainWriteOperation b · v)
  | .memWrite .audio _ _ => none
  | .memRead .main a => (busRegister ws.main a).bind (mainReadOperation b)
  | .memRead .audio a => (busRegister ws.audio a).bind (audioReadOperation b)
  | .line l level => (boundTo l b.lines).map (lineOperation · level)
  | .resume => none

/-- The operation of an input (R62, R98): a word is decoded; a bus access or driven line needs the binding of the session's variant,
and without it the spec refuses the bus level (R139, D26, U2). -/
def inputOperation (p : Setup) (inp : Input) : Except Refusal (Option Instr) :=
  match inp with
  | .word w =>
    match decode w with
    | .ok i => .ok (some i)
    | .error e => .error (.notATransaction e)
  | access =>
    match sessionBinding p with
    | some b => .ok (accessOperation p.windows b access)
    | none => .error .bindingNotSupplied

end Sys2Proof.Machine
end

