-- ==== Sys2Proof/Machine/Fetch.lean ====
section
/-! DEFINITION. Where the next operation comes from (20_memory.md R70, 60_exceptions.md R223, R237). CORE has no program counter (R33):
the order of arrival of its inputs is the order of its operations. -/

namespace Sys2Proof.Machine

/-- The turn of the audio element: with the hold lifted it goes on with the operation it holds (R223); otherwise it has no step.
Log 2. -/
def fetchHeld (s : State) : Fetched :=
  match s.areset, s.held with
  | .released, i :: rest => .operation i { s with held := rest }
  | .released, [] => .noOperation s
  | .asserted, _ => .noOperation s

/-- An operation that arrived. One of an agent that still holds an earlier one waits behind it, so that the order in which the agent
issues them stays (R70). Log 2. -/
def fetchOperation (i : Instr) (s : State) : Fetched :=
  if i.issuer = .audio ∧ s.areset = .released ∧ s.held ≠ [] then .noOperation { s with held := s.held ++ [i] } else .operation i s

/-- The next arrived input; with none, CORE waits (R251). A session with the periodic reset source connected is refused (R237).
Log 1. -/
def fetch (s : State) : Fetched :=
  if s.setup.periodicResetEnable then .refused .periodicResetEnabled
  else
    match s.inbox with
    | [] => .idle
    | .resume :: rest => fetchHeld { s with inbox := rest }
    | inp :: rest =>
      match inputOperation s.setup inp with
      | .error r => .refused r
      | .ok none => .noOperation { s with inbox := rest, result := .none }
      | .ok (some i) => fetchOperation i { s with inbox := rest }

end Sys2Proof.Machine
end

