-- ==== Sys2Proof/Machine/Step.lean ====
section
/-! DEFINITION. One step of the machine: fetch the next operation and perform it as one indivisible step (00_scope.md R15). -/

namespace Sys2Proof.Machine

/-- One step. With nothing to perform CORE waits: the state is unchanged (R18, R251). -/
def step (s : State) : Host.Outcome State Fault Refusal :=
  match fetch s with
  | .idle => .next s
  | .operation i t => exec i t
  | .noOperation t => .next t
  | .refused r => .refused r

/-- `s` with this word, in the opcode table's numbering, as the next transaction to be performed. Operations that a
running audio element still holds, behind which it would wait, are taken away; nothing else changes. Log 1, 20. -/
def State.withFetchWord (s : State) (nbits w : Nat) : State :=
  { s with
    inbox := .word (tableWord nbits w) :: s.inbox
    held := match s.areset with
      | .released => []
      | .asserted => s.held }

end Sys2Proof.Machine
end

