-- ==== Sys2Proof/Machine/Pseudo.lean ====
section
/-! DEFINITION. Sequences of operations (20_memory.md R70) and the pseudo-operations of 30_encoding.md R104. -/

namespace Sys2Proof.Machine

/-- Performs operations one after another, each completely before the next (R70). -/
def runOperations : List Instr → State → Result
  | [], s => .next s
  | i :: is, s =>
    match exec i s with
    | .next t => runOperations is t
    | .fault f => .fault f
    | .refused r => .refused r

/-- VID.PULSE: the inactive level, then the active one. -/
def vidPulse (p : Setup) : List Instr :=
  match p.vtrigEdge with
  | .rising => [.vidTrig false, .vidTrig true]
  | .falling => [.vidTrig true, .vidTrig false]

/-- VID.SEND c, d. -/
def vidSend (p : Setup) (c d : Byte) : List Instr := [.vidWcmd c, .vidWdata d] ++ vidPulse p

/-- AUD.SEND c. -/
def audSend (c : Byte) : List Instr := [.audWtrig false, .audWcmd c, .audWtrig true]

/-- AUD.HALT: the level that is not the run level. -/
def audHalt (p : Setup) : List Instr := [.audReset (!p.aresetRunLevel)]

/-- AUD.RUN: the run level. -/
def audRun (p : Setup) : List Instr := [.audReset p.aresetRunLevel]

end Sys2Proof.Machine
end

