-- ==== Sys2Proof/Machine/Text.lean ====
section
/-! DEFINITION. The text syntax of 30_encoding.md R103: one line of text to the operations it stands for, pseudo-operations (R104)
expanded. Log 29. -/

namespace Sys2Proof.Machine

/-- Why a line is not in the syntax. -/
inductive TextError where
  | unknownMnemonic
  | badOperands
  deriving DecidableEq, Repr

def isBlank (c : Char) : Bool := c = ' ' || c = '\t'

def trimBlanks (l : List Char) : List Char := ((l.dropWhile isBlank).reverse.dropWhile isBlank).reverse

/-- The value of a digit in a base up to 16. -/
def digitValue (base : Nat) (c : Char) : Option Nat :=
  let v :=
    if '0' ≤ c ∧ c ≤ '9' then some (c.toNat - '0'.toNat)
    else if 'a' ≤ c ∧ c ≤ 'f' then some (c.toNat - 'a'.toNat + 10)
    else if 'A' ≤ c ∧ c ≤ 'F' then some (c.toNat - 'A'.toNat + 10)
    else none
  v.filter (· < base)

def digitsValue (base acc : Nat) : List Char → Option Nat
  | [] => some acc
  | c :: cs =>
    match digitValue base c with
    | some v => digitsValue base (acc * base + v) cs
    | none => none

/-- "Numbers are decimal, or hexadecimal with `0x`." -/
def parseNumber : List Char → Option Nat
  | [] => none
  | '0' :: 'x' :: [] => none
  | '0' :: 'x' :: cs => digitsValue 16 0 cs
  | cs => digitsValue 10 0 cs

def parseByte (cs : List Char) : Option Byte :=
  match parseNumber cs with
  | some n => if n < 2 ^ 8 then some (BitVec.ofNat 8 n) else none
  | none => none

def parseLevel (cs : List Char) : Option Level :=
  if cs = ['0'] then some false else if cs = ['1'] then some true else none

/-- A number of nanoseconds, or a number followed by `us` meaning times 1000. -/
def parseTime (cs : List Char) : Option (BitVec 48) :=
  let ns := match cs.reverse with
    | 's' :: 'u' :: rest => (parseNumber (trimBlanks rest.reverse)).map (· * 1000)
    | _ => parseNumber cs
  match ns with
  | some n => if n < 2 ^ 48 then some (BitVec.ofNat 48 n) else none
  | none => none

/-- An index operand, at most 5. -/
def parseIndex (cs : List Char) : Option Nat := (parseNumber cs).filter (· ≤ 5)

/-- What follows the mnemonic, cut at commas. -/
def cutAtCommas : List Char → List (List Char)
  | [] => [[]]
  | c :: cs =>
    match cutAtCommas cs with
    | [] => [[c]]
    | t :: ts => if c = ',' then [] :: t :: ts else (c :: t) :: ts

def operandsOf (cs : List Char) : List (List Char) :=
  if trimBlanks cs = [] then [] else (cutAtCommas cs).map trimBlanks

/-! ### One reader per operand class (R92, R103) -/

def readN (is : List Instr) : List (List Char) → Option (List Instr)
  | [] => some is
  | _ => none

def readB (f : Byte → List Instr) : List (List Char) → Option (List Instr)
  | [a] => (parseByte a).map f
  | _ => none

def readBB (f : Byte → Byte → List Instr) : List (List Char) → Option (List Instr)
  | [a, b] =>
    match parseByte a, parseByte b with
    | some x, some y => some (f x y)
    | _, _ => none
  | _ => none

def readL (f : Level → Instr) : List (List Char) → Option (List Instr)
  | [a] => (parseLevel a).map fun l => [f l]
  | _ => none

def readT (f : BitVec 48 → Instr) : List (List Char) → Option (List Instr)
  | [a] => (parseTime a).map fun t => [f t]
  | _ => none

def readI : List (List Char) → Option (List Instr)
  | [a, b, c, d, e, f] =>
    match parseIndex a, parseByte b, parseByte c, parseByte d, parseByte e, parseByte f with
    | some i0, some i1, some i2, some i3, some i4, some i5 => some [.sysRestore (BitVec.ofNat 8 i0) i1 i2 i3 i4 i5]
    | _, _, _, _, _, _ => none
  | _ => none

def readK : List (List Char) → Option (List Instr)
  | [a, b] =>
    match parseIndex a, parseByte b with
    | some k, some v => some [.sysSetin (BitVec.ofNat 3 k) v]
    | _, _ => none
  | _ => none

/-- The mnemonics of R93 and R104 with the reader of each. -/
def mnemonicReaders (p : Setup) : List (String × (List (List Char) → Option (List Instr))) :=
  [("PSEL.SELECT", readB fun b => [.pselSelect b]),
   ("PSEL.READ", readN [.pselRead]),
   ("VID.WDATA", readB fun b => [.vidWdata b]),
   ("VID.WCMD", readB fun b => [.vidWcmd b]),
   ("VID.TRIG", readL .vidTrig),
   ("VID.ESTATE", readN [.vidEstate]),
   ("AUD.WCMD", readB fun b => [.audWcmd b]),
   ("AUD.WTRIG", readL .audWtrig),
   ("AUD.RESET", readL .audReset),
   ("AUD.RLATCH", readN [.audRlatch]),
   ("AUD.IRQ", readL .audIrq),
   ("SYN.TIGHTEN", readT .synTighten),
   ("SYN.ADVANCE", readT .synAdvance),
   ("SYN.GRAN", readN [.synGran]),
   ("SYS.RESET", readN [.sysReset]),
   ("SYS.SAVE", readN [.sysSave]),
   ("SYS.RESTORE", readI),
   ("SYS.SETIN", readK),
   ("VID.PULSE", readN (vidPulse p)),
   ("VID.SEND", readBB (vidSend p)),
   ("AUD.SEND", readB audSend),
   ("AUD.HALT", readN (audHalt p)),
   ("AUD.RUN", readN (audRun p))]

/-- The operations of one line; a line with nothing but blanks and a comment stands for none (R103). -/
def readLine (p : Setup) (line : List Char) : Except TextError (List Instr) :=
  let code := (line.takeWhile (· ≠ ';')).dropWhile isBlank
  if code = [] then .ok []
  else
    match (mnemonicReaders p).find? fun e => e.1.toList = code.takeWhile (fun c => !isBlank c) with
    | none => .error .unknownMnemonic
    | some e =>
      match e.2 (operandsOf (code.dropWhile fun c => !isBlank c)) with
      | some is => .ok is
      | none => .error .badOperands

end Sys2Proof.Machine
end

