-- ==== Sys2Proof/Safety.lean ====
section
/-! DEFINITION. The terms that claims use: the invariant of every reachable state, what the outside counts in `OUT`, the view without
the timing layer, and the obligation of a faithful scheduler. -/

namespace Sys2Proof.Machine

/-- What holds of a state after every step: the handshake invariant of R35, the interrupt line low under reset (R157), only live
windows (R40, R181, R186) in the list's order (log 8), only the audio element held (R223), and `OUT` beginning with the
power-on marker (R44, R201). -/
structure Inv (s : State) : Prop where
  haltedIffAsserted : s.astate = .audioHalted ↔ s.areset = .asserted
  irqLowInReset     : s.areset = .asserted → s.airq = false
  windowsOrdered    : s.windows.Pairwise fun a b => tighteningLe a b = true
  windowsLive       : ∀ w ∈ s.windows, 0 < w.gran ∧ s.now < w.expiry ∧ w.expiry ≤ s.now + wTighten s.setup
  heldAreAudio      : ∀ i ∈ s.held, i.issuer = .audio
  outBegins         : s.out.head? = some .sessionReset

/-- Whether an event is a delivery. -/
def isDraw : Event → Bool
  | .draw _ _ _ => true
  | .timerReset => false
  | .tighten _ => false
  | .sessionReset => false

/-- The number of deliveries in `OUT` (R137). -/
def drawCount (s : State) : Nat := (s.out.filter isDraw).length

/-- The level that the active edge goes to (R133). -/
def activeLevel (p : Setup) : Level :=
  match p.vtrigEdge with
  | .rising => true
  | .falling => false

/-- Whether an operation is a VID.TRIG that takes the line to the active level from the other one (R137). -/
def makesActiveEdge (i : Instr) (s : State) : Bool :=
  match i with
  | .vidTrig l => s.vtrig != l && l == activeLevel s.setup
  | _ => false

/-- How many operations of a sequence make an active edge when they are performed one after another from a state (R137). -/
def activeEdges : List Instr → State → Nat
  | [], _ => 0
  | i :: is, s =>
    (makesActiveEdge i s).toNat +
      match exec i s with
      | .next t => activeEdges is t
      | .fault _ => 0
      | .refused _ => 0

/-- A sequence in which every burst is no longer than the granularity in force when it is made (R187). -/
def faithfulSchedule : List Instr → State → Prop
  | [], _ => True
  | i :: is, s =>
    (∀ dt, i = .synAdvance dt → dt.toNat ≤ gran s) ∧
      match exec i s with
      | .next t => faithfulSchedule is t
      | .fault _ => True
      | .refused _ => True

/-- The state without the timing layer of R43. -/
def withoutTiming (s : State) : State := { s with windows := [], now := 0, drift := false }

/-- The same, without what the last operation returned. -/
def withoutTimingAndResult (s : State) : State := { withoutTiming s with result := .none }

/-- What one sees of an outcome through a view of the state. -/
def mapNext (view : State → State) : Result → Result
  | .next t => .next (view t)
  | .fault f => .fault f
  | .refused r => .refused r

end Sys2Proof.Machine
end

