-- ==== Sys2Proof/Certificates/Slice0/Obligations.lean ====
section
/-! DEFINITION. The statements about the model. Each docstring names the rules of spec/ it formalises; where a clause rests on a
decision or inference that the spec marks as its own, or on a choice of the model, the docstring says so. -/

open Sys2Proof Sys2Proof.Machine

/-! ### Reset -/

/-- 10_state.md section 6: the power-on state of a session with parameters p, State.reset as that of the default parameters, and
power-on as one SYS.RESET from `NOW` = 0 and an empty `OUT`, every other element arbitrary. Only PSEL = 0 is the source's; the other
values are the spec's decisions D4, D9, D12, D13, D17, D22, D30, D35 (log 9, 10, 14, 25). That the last clause keeps the model's own
fields is the model's choice: the arrived inputs (log 1), the count of free reads (log 7) and the held operations, of which over a
reset the spec says nothing (log 2, unsafe). -/
def Obligations.PowerOnStateHoldsTheResetValues : Prop :=
  State.reset = State.powerOn Setup.default ∧
  (∀ p : Setup, ∀ s : State, s = State.powerOn p →
    s.psel = 0 ∧ s.vx = p.resetVx ∧ s.vy = p.resetVy ∧ s.vcmd = p.resetVcmd ∧ s.vdata = p.resetVdata ∧
    s.vprev = p.resetVprev ∧ s.vtrig = p.resetVtrig ∧ s.alatch = p.resetAlatch ∧ s.areset = .asserted ∧
    s.astate = .audioHalted ∧ s.airq = false ∧ s.windows = [] ∧ s.now = 0 ∧ s.drift = false ∧ s.out = [.sessionReset] ∧
    (∀ k : Index, s.pins[k] = none) ∧ s.setup = p ∧ gran s = qDefault p ∧ aCpuReset s = true ∧ aTimerReset s = true ∧
    mainIrq s = false) ∧
  ∀ s : State, s.now = 0 → s.out = [] →
    exec .sysReset s = .next { State.powerOn s.setup with
      pins := s.pins, inbox := s.inbox, held := s.held, result := .none, freeCount := s.freeCount }

/-! ### Encoding (the transaction word is the spec's own device, decision D1) -/

/-- 30_encoding.md section 6: decoding an encoded operation returns it (decision D1). -/
def Obligations.DecodeOfEncodeIsTheOperation : Prop :=
  ∀ i : Instr, i.wellFormed = true → decode (encode i) = .ok i

/-- 30_encoding.md section 6: encoding a decoded word returns the word, and what is decoded is well formed (decision D1). -/
def Obligations.EncodeOfDecodeIsTheWord : Prop :=
  ∀ (w : Word) (i : Instr), decode w = .ok i → encode i = w ∧ i.wellFormed = true

/-- 30_encoding.md sections 3 and 5: a word is an operation exactly if it meets pattern, mask and extra condition of one of the
eighteen rows, of one row only, and then of its own operation's row (decision D1). -/
def Obligations.DecoderAcceptsExactlyTheOpcodeRows : Prop :=
  opcodeRows.length = 18 ∧
  ∀ w : Word,
    ((∃ i, decode w = .ok i) ↔ ∃ r ∈ opcodeRows, r.spells w = true) ∧
    (∀ r ∈ opcodeRows, ∀ r' ∈ opcodeRows, r.spells w = true → r'.spells w = true → r = r') ∧
    ∀ i, decode w = .ok i → i.row ∈ opcodeRows ∧ i.row.spells w = true

/-- 30_encoding.md section 6: the word is `match | opnd` (decision D1). -/
def Obligations.EncodingIsPatternOrOperand : Prop :=
  ∀ i : Instr, encode i = i.row.pattern ||| i.operand.setWidth 64

/-- 30_encoding.md section 1 and 20_memory.md section 2: written as bytes, bits 63:56 come first, and decoding the bytes gives the
operation and the rest (decisions D1, D32). -/
def Obligations.BytesOfAnOperationDecodeBack : Prop :=
  ∀ (i : Instr) (rest : List Byte), i.wellFormed = true →
    decodeBytes (wordBytes (encode i) ++ rest) = .ok (i, rest) ∧
    (wordBytes (encode i)).head? = some ((encode i).extractLsb' 56 8)

/-- 30_encoding.md section 8: some of the worked encodings and rejected words, one operation of every family. -/
def Obligations.WorkedEncodingsDecode : Prop :=
  (decode 0x0000000000000008#64).toOption = some (.pselSelect 0x08#8) ∧
  (decode 0x1100000000000007#64).toOption = some (.vidWcmd 0x07#8) ∧
  (decode 0x2400000000000001#64).toOption = some (.audIrq true) ∧
  (decode 0x3000000000002710#64).toOption = some (.synTighten 10000#48) ∧
  (decode 0x4200031020074207#64).toOption = some (.sysRestore 3#8 0x10#8 0x20#8 0x07#8 0x42#8 0x07#8) ∧
  (decode 0x43000000000003A5#64).toOption = some (.sysSetin 3#3 0xA5#8) ∧
  (decode 0x5000000000000000#64).toOption = none ∧
  (decode 0x4200061020074207#64).toOption = none

/-! ### The step -/

/-- 20_memory.md section 3: when the next arrived input is a word that decodes to i, the step is exec of i in the state without that
input, unless i is the audio element's and that element still holds an earlier one: then i waits behind it, so that the agent's order
stays. Where inputs arrive and where an operation waits are the model's choices, log 1 and 2. -/
def Obligations.StepRunsTheDecodedTransaction : Prop :=
  ∀ (s : State) (w : Word) (rest : List Input) (i : Instr),
    s.setup.periodicResetEnable = false → s.inbox = .word w :: rest → decode w = .ok i →
    (i.issuer ≠ .audio ∨ s.areset = .asserted ∨ s.held = [] → step s = exec i { s with inbox := rest }) ∧
    (i.issuer = .audio ∧ s.areset = .released ∧ s.held ≠ [] →
      step s = .next { s with inbox := rest, held := s.held ++ [i] })

/-- 60_exceptions.md section 1: a held audio element goes on with its operation when the hold is lifted, and has no step before. That
its turn is an input among the arrivals is the model's choice, log 2. -/
def Obligations.StepGoesOnWithAHeldOperationAfterRelease : Prop :=
  ∀ (s : State) (rest : List Input), s.setup.periodicResetEnable = false → s.inbox = .resume :: rest →
    (∀ i hs, s.areset = .released → s.held = i :: hs → step s = exec i { s with inbox := rest, held := hs }) ∧
    (s.areset = .asserted ∨ s.held = [] → step s = .next { s with inbox := rest })

/-- 30_encoding.md section 6 and log 1: the word of any well-formed operation, put where step fetches, is the operation that step
performs. -/
def Obligations.StepRunsTheOperationPlacedForIt : Prop :=
  ∀ (s : State) (i : Instr), i.wellFormed = true → s.setup.periodicResetEnable = false →
    step (s.withFetchWord 64 (encode i).toNat) =
      exec i { s with held := if s.areset = .released then [] else s.held }

/-- 30_encoding.md section 5 (decision D29) and 60_exceptions.md section 5 (decision D25): the step is refused by name for a word
that spells no operation, and whenever the periodic reset source is enabled. -/
def Obligations.StepRefusesWhatTheSpecRefuses : Prop :=
  (∀ s : State, s.setup.periodicResetEnable = true → step s = .refused .periodicResetEnabled) ∧
  (∀ (s : State) (w : Word) (rest : List Input) (e : DecodeError),
    s.setup.periodicResetEnable = false → s.inbox = .word w :: rest → decode w = .error e →
    step s = .refused (.notATransaction e))

/-- 00_scope.md R18 (its derivation) and 70_reset_and_hazards.md section 1: with nothing that has arrived CORE waits, and the
step changes nothing. That waiting is a step is the model's choice, log 1. -/
def Obligations.WithNothingToPerformCoreWaits : Prop :=
  ∀ s : State, s.setup.periodicResetEnable = false → s.inbox = [] → step s = .next s

/-! ### Faults and holds -/

/-- 60_exceptions.md section 1: every operation with every operand its class allows completes or is held, and nothing faults. Which
operations are held and when is decision D18; that a held operation is appended to a list and nothing else changes is the model's choice,
log 2. That nothing faults is the shape of `Fault`, which has no constructor (log 28). -/
def Obligations.EveryOperationCompletesOrIsHeld : Prop :=
  ∀ (i : Instr) (s : State), i.wellFormed = true →
    (∃ t, exec i s = .next t ∧
      ((t.held = s.held) ∨ (t = { s with held := s.held ++ [i] } ∧ i.issuer = .audio ∧ s.areset = .asserted))) ∧
    (∀ f, exec i s ≠ .fault f) ∧ (∀ f, step s ≠ .fault f)

/-- 30_encoding.md section 5 and 44_session.md section SYS.RESTORE (decisions D11, D29): an index above 5 is no transaction; exec
refuses it by name, and no word decodes to it. -/
def Obligations.IndexAboveFiveIsRefused : Prop :=
  (∀ (i0 i1 i2 i3 i4 i5 : Byte) (s : State), 5 < i0.toNat →
    exec (.sysRestore i0 i1 i2 i3 i4 i5) s = .refused .indexAbove5 ∧
    ∀ w, decode w ≠ .ok (.sysRestore i0 i1 i2 i3 i4 i5)) ∧
  (∀ (k : BitVec 3) (v : Byte) (s : State), 5 < k.toNat →
    exec (.sysSetin k v) s = .refused .indexAbove5 ∧ ∀ w, decode w ≠ .ok (.sysSetin k v))

/-- 42_audio_channel.md section AUD.RESET and 60_exceptions.md section 1 (decision D18): while the reset line is asserted the two
operations of the audio element are not enabled; nothing changes but that they wait (how they wait is the model's choice, log 2). -/
def Obligations.AudioOperationsAreHeldInReset : Prop :=
  ∀ (s : State) (level : Level), s.areset = .asserted →
    exec .audRlatch s = .next { s with held := s.held ++ [.audRlatch] } ∧
    exec (.audIrq level) s = .next { s with held := s.held ++ [.audIrq level] }

/-- 30_encoding.md section 5 (decision D23 for the last clause): the operand values that do nothing change no state, set no flag and
emit no event. -/
def Obligations.IgnoredOperandsChangeNothing : Prop :=
  ∀ (s : State),
    (∀ code : Byte, code ∉ [0x01#8, 0x02#8, 0x04#8, 0x08#8, 0x80#8, 0x40#8] →
      exec (.pselSelect code) s = .next { s with result := .none }) ∧
    exec (.vidTrig s.vtrig) s = .next { s with result := .none } ∧
    (∀ level, (level = s.setup.aresetRunLevel ↔ s.areset = .released) →
      exec (.audReset level) s = .next { s with result := .none }) ∧
    (s.areset = .released → exec (.audIrq s.airq) s = .next { s with result := .none }) ∧
    exec (.synTighten 0#48) s = .next { s with result := .none }

/-! ### Port Selector -/

/-- R120: the six codes, and only they, move the selector; nothing else changes. -/
def Obligations.SelectDecodesTheSixCodes : Prop :=
  ∀ (code : Byte) (s : State),
    (Instr.pselSelect code).issuer = .main ∧
    encode (.pselSelect code) = 0x0000000000000000#64 ||| code.setWidth 64 ∧
    (code = 0x01#8 → exec (.pselSelect code) s = .next { s with psel := 0, result := .none }) ∧
    (code = 0x02#8 → exec (.pselSelect code) s = .next { s with psel := 1, result := .none }) ∧
    (code = 0x04#8 → exec (.pselSelect code) s = .next { s with psel := 2, result := .none }) ∧
    (code = 0x08#8 → exec (.pselSelect code) s = .next { s with psel := 3, result := .none }) ∧
    (code = 0x80#8 → exec (.pselSelect code) s = .next { s with psel := 4, result := .none }) ∧
    (code = 0x40#8 → exec (.pselSelect code) s = .next { s with psel := 5, result := .none }) ∧
    (code ∉ [0x01#8, 0x02#8, 0x04#8, 0x08#8, 0x80#8, 0x40#8] →
      exec (.pselSelect code) s = .next { s with result := .none })

/-- R121: a read returns the selected group's value now and changes no state. -/
def Obligations.ReadReturnsTheSelectedGroup : Prop :=
  Instr.pselRead.issuer = .main ∧ encode .pselRead = 0x0100000000000000#64 ∧
  ∀ (s : State) (v : Byte), s.pins[s.psel] = some v → exec .pselRead s = .next { s with result := .byte v }

/-- 44_session.md section SYS.SETIN (decision D27): a read of a group nobody has driven completes with a byte that the environment
chooses; only the count of such reads, the model's own field, moves (log 7). -/
def Obligations.ReadOfAnUndrivenGroupCompletes : Prop :=
  ∀ s : State, s.pins[s.psel] = none →
    ∃ v : Byte, exec .pselRead s = .next { s with result := .byte v, freeCount := s.freeCount + 1 }

/-- 40_port_selector.md section "Properties of the family" (its derivation): a valid select, any number of reads, then an unmapped
select, then a read, gives the group of the valid select. -/
def Obligations.SelectThenReadRoutesTheGroup : Prop :=
  ∀ (s : State) (k : Index) (c v : Byte) (n : Nat), s.pins[k] = some v → (∀ j : Index, c ≠ selectCode j) →
    ∃ t, runOperations ([.pselSelect (selectCode k)] ++ List.replicate n .pselRead ++ [.pselSelect c, .pselRead]) s = .next t ∧
      t.result = .byte v ∧ t.psel = k

/-- R21, R123: the selector is 0 to 5 and 0 after reset; only a valid PSEL.SELECT, SYS.RESET and SYS.RESTORE move it, SYS.RESET
gives 0, and but for PSEL.READ and SYS.SAVE no operation reads it: whatever the selector is, the rest of the outcome is the same. -/
def Obligations.SelectorIsMovedOnlyBySelectResetAndRestore : Prop :=
  State.reset.psel = 0 ∧
  ∀ (i : Instr) (s : State),
    (∀ t, exec i s = .next t →
      t.psel.val ≤ 5 ∧
      (t.psel ≠ s.psel →
        (∃ k, i = .pselSelect (selectCode k)) ∨ i = .sysReset ∨ ∃ i0 i1 i2 i3 i4 i5, i = .sysRestore i0 i1 i2 i3 i4 i5) ∧
      (i = .sysReset → t.psel = 0)) ∧
    (i ≠ .pselRead → i ≠ .sysSave → ∀ k : Index,
      mapNext (fun t => { t with psel := 0 }) (exec i { s with psel := k }) =
        mapNext (fun t => { t with psel := 0 }) (exec i s))

/-! ### Drawing-Engine Command Channel -/

/-- R130: VID.WDATA writes the data latch and nothing else. -/
def Obligations.WriteDataWritesTheDataLatchOnly : Prop :=
  ∀ (byte : Byte) (s : State),
    (Instr.vidWdata byte).issuer = .main ∧ encode (.vidWdata byte) = 0x1000000000000000#64 ||| byte.setWidth 64 ∧
    exec (.vidWdata byte) s = .next { s with vdata := byte, result := .none }

/-- 41_video_channel.md section VID.WCMD: VID.WCMD writes the command latch and nothing else, VPREV not written (decision D5). -/
def Obligations.WriteCommandWritesTheCommandLatchOnly : Prop :=
  ∀ (byte : Byte) (s : State),
    (Instr.vidWcmd byte).issuer = .main ∧ encode (.vidWcmd byte) = 0x1100000000000000#64 ||| byte.setWidth 64 ∧
    exec (.vidWcmd byte) s = .next { s with vcmd := byte, result := .none }

/-- 41_video_channel.md section VID.TRIG (decisions D5, D6, D7, D8): the active edge delivers once, with the old previous value,
moves X and Y by the engine's function and records the command; every other call only writes the line's level. -/
def Obligations.TriggerDeliversOnTheActiveEdge : Prop :=
  ∀ (level : Level) (s : State),
    (s.vtrig ≠ level ∧ (level = true ↔ s.setup.vtrigEdge = .rising) →
      exec (.vidTrig level) s = .next { s with
        vtrig := level
        out := s.out ++ [.draw s.vcmd s.vdata s.vprev]
        vx := (engineXY s.setup.engineXY s.vcmd s.vdata s.vx s.vy).1
        vy := (engineXY s.setup.engineXY s.vcmd s.vdata s.vx s.vy).2
        vprev := s.vcmd
        result := .none }) ∧
    (¬(s.vtrig ≠ level ∧ (level = true ↔ s.setup.vtrigEdge = .rising)) →
      exec (.vidTrig level) s = .next { s with vtrig := level, result := .none })

/-- 41_video_channel.md section VID.ESTATE (decision D33): the engine reads the five fields, VX highest, and changes nothing. -/
def Obligations.EngineReadReturnsTheFiveFields : Prop :=
  ∀ s : State, ∃ v : BitVec 40, exec .vidEstate s = .next { s with result := .video v } ∧
    v.extractLsb' 32 8 = s.vx ∧ v.extractLsb' 24 8 = s.vy ∧ v.extractLsb' 16 8 = s.vcmd ∧ v.extractLsb' 8 8 = s.vdata ∧
    v.extractLsb' 0 8 = s.vprev

/-- 41_video_channel.md section "Properties of the family" (its derivation): over any sequence of operations the number of Draw
events appended is the number of VID.TRIG operations that make the active edge. -/
def Obligations.DeliveriesEqualActiveEdges : Prop :=
  ∀ (is : List Instr) (s t : State), runOperations is s = .next t → drawCount t = drawCount s + activeEdges is s

/-- 41_video_channel.md section "Properties of the family" (its derivation): with the line at the active level, no sequence
delivers that has neither a VID.TRIG to the other level nor a SYS.RESET. -/
def Obligations.NoDeliveryWithoutTheOppositeEdgeFirst : Prop :=
  ∀ (is : List Instr) (s t : State), s.vtrig = activeLevel s.setup →
    (∀ i ∈ is, i ≠ .sysReset ∧ i ≠ .vidTrig (!activeLevel s.setup)) →
    runOperations is s = .next t → drawCount t = drawCount s ∧ t.vtrig = s.vtrig

/-- 41_video_channel.md section "Properties of the family" (its derivation): the two writes in either order give the same state, and
the active edge after them delivers the pair. -/
def Obligations.DataAndCommandWritesMayComeInEitherOrder : Prop :=
  ∀ (c d : Byte) (s : State),
    runOperations [.vidWdata d, .vidWcmd c] s = runOperations [.vidWcmd c, .vidWdata d] s ∧
    (s.vtrig ≠ activeLevel s.setup →
      ∃ t, runOperations [.vidWdata d, .vidWcmd c, .vidTrig (activeLevel s.setup)] s = .next t ∧
        t.out = s.out ++ [.draw c d s.vprev])

/-- 30_encoding.md section 7 (decision D34): VID.SEND delivers the pair exactly once, whatever level the line had. -/
def Obligations.SendDeliversItsPairExactlyOnce : Prop :=
  ∀ (c d : Byte) (s : State), ∃ t, runOperations (vidSend s.setup c d) s = .next t ∧
    t.out = s.out ++ [.draw c d s.vprev] ∧ t.vprev = c ∧ t.vtrig = activeLevel s.setup

/-! ### Audio Command Channel -/

/-- 42_audio_channel.md section AUD.WCMD (decisions D16, D20): the low seven bits of the latch become the byte's, bit 7 stays, a change
in Idle moves to AwaitingAck, and nothing else changes, whatever the reset line is. -/
def Obligations.CommandWriteKeepsTheTriggerFlag : Prop :=
  ∀ (byte : Byte) (s : State), ∃ t, exec (.audWcmd byte) s = .next t ∧
    t = { s with alatch := t.alatch, astate := t.astate, result := .none } ∧
    latchCommand t.alatch = byte.extractLsb' 0 7 ∧ latchTrigger t.alatch = latchTrigger s.alatch ∧
    (s.astate = .idle ∧ t.alatch ≠ s.alatch → t.astate = .awaitingAck) ∧
    (¬(s.astate = .idle ∧ t.alatch ≠ s.alatch) → t.astate = s.astate)

/-- 42_audio_channel.md section AUD.WTRIG (decisions D16, D20): bit 7 of the latch becomes the level, the command stays, a change in
Idle moves to AwaitingAck, and nothing else changes. -/
def Obligations.TriggerWriteKeepsTheCommand : Prop :=
  ∀ (level : Level) (s : State), ∃ t, exec (.audWtrig level) s = .next t ∧
    t = { s with alatch := t.alatch, astate := t.astate, result := .none } ∧
    latchTrigger t.alatch = level ∧ latchCommand t.alatch = latchCommand s.alatch ∧
    (s.astate = .idle ∧ t.alatch ≠ s.alatch → t.astate = .awaitingAck) ∧
    (¬(s.astate = .idle ∧ t.alatch ≠ s.alatch) → t.astate = s.astate)

/-- 42_audio_channel.md section AUD.WTRIG (its derivation) and 30_encoding.md section 4: a command write and a trigger write, in either
order and with any number of audio reads between, leave `(c & 0x7F) | (t << 7)`: bit 7 the trigger flag, bits 6:0 the command, and bit
7 of the command operand discarded. That the writes take effect while the reset line is asserted is decision D16 (log 13); that
reads between are then held, and how they wait, is decision D18 and the model's choice, log 2. -/
def Obligations.PartialLatchWritesAreDisjoint : Prop :=
  ∀ (c : Byte) (l : Level) (n : Nat) (s : State),
    (∃ t, runOperations ([.audWcmd c] ++ List.replicate n .audRlatch ++ [.audWtrig l]) s = .next t ∧
      t.alatch = (c &&& 0x7F#8) ||| (levelBits 8 l <<< 7) ∧
      latchTrigger t.alatch = l ∧ latchCommand t.alatch = c.extractLsb' 0 7) ∧
    (∃ t, runOperations ([.audWtrig l] ++ List.replicate n .audRlatch ++ [.audWcmd c]) s = .next t ∧
      t.alatch = (c &&& 0x7F#8) ||| (levelBits 8 l <<< 7)) ∧
    exec (.audWcmd c) s = exec (.audWcmd (c &&& 0x7F#8)) s

/-- R30: the trigger flag is moved only by AUD.WTRIG, which copies its level there and leaves the low seven bits, and by session
reset, which gives bit 7 of RESET_ALATCH, 0 by default; the audio element reads it through AUD.RLATCH. -/
def Obligations.TriggerFlagIsMovedOnlyByItsWriteAndReset : Prop :=
  latchTrigger Setup.default.resetAlatch = false ∧
  ∀ (i : Instr) (s t : State), exec i s = .next t →
    (latchTrigger t.alatch ≠ latchTrigger s.alatch → (∃ l, i = .audWtrig l) ∨ i = .sysReset) ∧
    (∀ l, i = .audWtrig l → latchTrigger t.alatch = l ∧ latchCommand t.alatch = latchCommand s.alatch) ∧
    (i = .sysReset → latchTrigger t.alatch = latchTrigger s.setup.resetAlatch) ∧
    (i = .audRlatch → s.areset = .released → ∃ v : Byte, t.result = .byte v ∧ v.getLsbD 7 = latchTrigger s.alatch)

/-- 42_audio_channel.md section AUD.RESET (decisions D14 to D17; log 11, 13, 14): the assert transition, the release
transition with its two events in order and its window, and no effect without a transition. -/
def Obligations.ResetLineActsOnTransitionsOnly : Prop :=
  ∀ (level : Level) (s : State),
    (s.areset = .released ∧ level ≠ s.setup.aresetRunLevel →
      exec (.audReset level) s =
        .next { s with areset := .asserted, astate := .audioHalted, airq := false, result := .none }) ∧
    (s.areset = .asserted ∧ level = s.setup.aresetRunLevel →
      ∃ t, exec (.audReset level) s = .next t ∧
        t = { s with
          areset := .released
          astate := .awaitingAck
          out := s.out ++ [.timerReset, .tighten 10000]
          windows := t.windows
          result := .none } ∧
        t.windows.Perm (⟨10000, s.now + wTighten s.setup⟩ :: s.windows)) ∧
    (¬(s.areset = .released ∧ level ≠ s.setup.aresetRunLevel) ∧ ¬(s.areset = .asserted ∧ level = s.setup.aresetRunLevel) →
      exec (.audReset level) s = .next { s with result := .none })

/-- 42_audio_channel.md section AUD.RLATCH (decision D19): with the line released the read returns the latch and moves AwaitingAck to
Idle; nothing else changes. -/
def Obligations.AudioReadReturnsTheLatch : Prop :=
  ∀ s : State, s.areset = .released →
    (s.astate = .awaitingAck →
      exec .audRlatch s = .next { s with astate := .idle, result := .byte s.alatch }) ∧
    (s.astate ≠ .awaitingAck → exec .audRlatch s = .next { s with result := .byte s.alatch })

/-- 42_audio_channel.md section AUD.IRQ (decision D14): with the line released the level is taken, MAIN_IRQ follows, and a rising edge,
only, requests tightening by 10 microseconds. -/
def Obligations.InterruptLineFollowsTheAudioElement : Prop :=
  ∀ (level : Level) (s : State), s.areset = .released →
    (s.airq = false ∧ level = true →
      ∃ t, exec (.audIrq level) s = .next t ∧ mainIrq t = true ∧
        t = { s with airq := true, out := s.out ++ [.tighten 10000], windows := t.windows, result := .none } ∧
        t.windows.Perm (⟨10000, s.now + wTighten s.setup⟩ :: s.windows)) ∧
    (¬(s.airq = false ∧ level = true) →
      ∃ t, exec (.audIrq level) s = .next t ∧ mainIrq t = level ∧ t = { s with airq := level, result := .none })

/-- 60_exceptions.md section 3: the one interrupt line. Its level is MAIN_IRQ; only AUD.IRQ raises it, with the tightening request; it
is lowered by AUD.IRQ 0, by an assert of the audio reset line and by session reset, and by nothing else. That an assert and session
reset lower it is decision D17 (10_state.md section 3), a blind spot of the spec: log 14, unsafe. -/
def Obligations.InterruptIsRaisedAndClearedOnlyAsStated : Prop :=
  ∀ (i : Instr) (s t : State), exec i s = .next t →
    mainIrq t = t.airq ∧
    (s.airq = false ∧ t.airq = true → i = .audIrq true ∧ s.areset = .released ∧ t.out = s.out ++ [.tighten 10000]) ∧
    (s.airq = true ∧ t.airq = false →
      i = .audIrq false ∨ i = .sysReset ∨ ∃ l, i = .audReset l ∧ s.areset = .released ∧ l ≠ s.setup.aresetRunLevel) ∧
    (i = .audIrq false → s.areset = .released → t.airq = false) ∧
    (i = .sysReset → t.airq = false) ∧
    (∀ l, i = .audReset l → s.areset = .released → l ≠ s.setup.aresetRunLevel → t.airq = false)

/-- 42_audio_channel.md section "The handshake state machine": the whole transition table of the handshake. The entries between
AwaitingAck and Idle rest on decisions D19 and D20 (log 17), the reset values on D13; that a held operation is appended to a list is
the model's choice, log 2. The premise is the invariant of 10_state.md that the handshake is halted exactly while the line is asserted. -/
def Obligations.HandshakeFollowsItsTransitionTable : Prop :=
  ∀ (i : Instr) (s t : State), (s.astate = .audioHalted ↔ s.areset = .asserted) → exec i s = .next t →
    (∀ level, i = .audReset level →
      (s.areset = .released ∧ level ≠ s.setup.aresetRunLevel → t.astate = .audioHalted) ∧
      (s.areset = .asserted ∧ level = s.setup.aresetRunLevel → t.astate = .awaitingAck) ∧
      ((s.areset = .asserted ↔ level ≠ s.setup.aresetRunLevel) → t.astate = s.astate)) ∧
    (i = .audRlatch →
      (s.astate = .awaitingAck → t.astate = .idle) ∧ (s.astate ≠ .awaitingAck → t.astate = s.astate) ∧
      (s.astate = .audioHalted → t.held = s.held ++ [i])) ∧
    ((∃ b, i = .audWcmd b) ∨ (∃ l, i = .audWtrig l) →
      (s.astate = .idle ∧ t.alatch ≠ s.alatch → t.astate = .awaitingAck) ∧
      (¬(s.astate = .idle ∧ t.alatch ≠ s.alatch) → t.astate = s.astate)) ∧
    (∀ level, i = .audIrq level → t.astate = s.astate ∧ (s.astate = .audioHalted → t.held = s.held ++ [i])) ∧
    (i = .sysReset → t.astate = .audioHalted) ∧
    ((∀ level, i ≠ .audReset level) ∧ i ≠ .audRlatch ∧ (∀ b, i ≠ .audWcmd b) ∧ (∀ l, i ≠ .audWtrig l) ∧ i ≠ .sysReset →
      t.astate = s.astate)

/-! ### Interleave Synchronizer -/

/-- 43_synchronizer.md section "SYN.TIGHTEN and the tighten procedure" (decisions D21, D23): 0 is ignored; any other request appends
its event and adds exactly one member to the multiset of windows. -/
def Obligations.TightenAddsOneWindow : Prop :=
  ∀ (g : BitVec 48) (s : State),
    (g.toNat = 0 → exec (.synTighten g) s = .next { s with result := .none }) ∧
    (g.toNat ≠ 0 → ∃ t, exec (.synTighten g) s = .next t ∧
      t = { s with out := s.out ++ [.tighten g.toNat], windows := t.windows, result := .none } ∧
      t.windows.Perm (⟨g.toNat, s.now + wTighten s.setup⟩ :: s.windows))

/-- R185: SYN.GRAN returns the least of Q_DEFAULT and the granularities of the windows in force, changes nothing, and with positive
windows is never 0. -/
def Obligations.GranularityIsTheLeastInForce : Prop :=
  Instr.synGran.issuer = .sched ∧ encode .synGran = 0x3200000000000000#64 ∧
  ∀ s : State, ∃ g : Nat, exec .synGran s = .next { s with result := .time g } ∧
    g ≤ qDefault s.setup ∧ (∀ w ∈ s.windows, s.now < w.expiry → g ≤ w.gran) ∧
    (g = qDefault s.setup ∨ ∃ w ∈ s.windows, s.now < w.expiry ∧ g = w.gran) ∧
    (s.windows = [] → g = qDefault s.setup) ∧ ((∀ w ∈ s.windows, 0 < w.gran) → 0 < g)

/-- 43_synchronizer.md section SYN.ADVANCE (decision D22): time moves by dt, exactly the windows that are still in force stay, and
DRIFT is set exactly if the burst was longer than the granularity before time moved. -/
def Obligations.AdvanceMovesTimeAndExpiresWindows : Prop :=
  ∀ (dt : BitVec 48) (s : State), ∃ t, exec (.synAdvance dt) s = .next t ∧
    t = { s with now := s.now + dt.toNat, windows := t.windows, drift := t.drift, result := .none } ∧
    t.windows = s.windows.filter (fun w => s.now + dt.toNat < w.expiry) ∧
    (t.drift = true ↔ s.drift = true ∨ gran s < dt.toNat)

/-- R183: a second equal request made at once changes no granularity read afterwards, however time advances; and two requests give
the same windows in either order. -/
def Obligations.DuplicateRequestsAreHarmlessAndOrderFree : Prop :=
  (∀ (g : BitVec 48) (bursts : List (BitVec 48)) (s t u : State),
    runOperations ([.synTighten g] ++ bursts.map .synAdvance ++ [.synGran]) s = .next t →
    runOperations ([.synTighten g, .synTighten g] ++ bursts.map .synAdvance ++ [.synGran]) s = .next u →
    t.result = u.result ∧ t.drift = u.drift ∧ t.now = u.now) ∧
  (∀ (g g' : BitVec 48) (s t u : State),
    runOperations [.synTighten g, .synTighten g'] s = .next t → runOperations [.synTighten g', .synTighten g] s = .next u →
    t.windows = u.windows)

/-- R182: CORE itself requests tightening at exactly two points, the release of the audio reset line and the rise of the audio
interrupt, each time by 10 microseconds; the only other request is SYN.TIGHTEN itself. -/
def Obligations.TighteningIsRequestedAtExactlyTwoPoints : Prop :=
  ∀ (i : Instr) (s t : State), exec i s = .next t → ∃ es, t.out = s.out ++ es ∧
    (∀ g, Event.tighten g ∈ es →
      (i = .audReset s.setup.aresetRunLevel ∧ s.areset = .asserted ∧ g = 10000) ∨
      (i = .audIrq true ∧ s.areset = .released ∧ s.airq = false ∧ g = 10000) ∨
      (∃ d, i = .synTighten d ∧ d.toNat = g ∧ g ≠ 0)) ∧
    (i = .audReset s.setup.aresetRunLevel ∧ s.areset = .asserted → Event.tighten 10000 ∈ es) ∧
    (i = .audIrq true ∧ s.areset = .released ∧ s.airq = false → Event.tighten 10000 ∈ es)

/-- 43_synchronizer.md section "Properties of the family" (its derivation): under a scheduler whose bursts respect the granularity,
DRIFT stays 0. -/
def Obligations.FaithfulScheduleNeverDrifts : Prop :=
  ∀ (is : List Instr) (s t : State), runOperations is s = .next t → faithfulSchedule is s → s.drift = false →
    t.drift = false

/-- R188: the timing layer never changes what the other units compute. From two states that differ only in WINDOWS, NOW and DRIFT,
any sequence of operations without SYN.GRAN gives states, events and results that differ only there; and with SYN.GRAN too, what
differs is only the timing layer and the result last returned, which nothing reads. -/
def Obligations.TimingNeverChangesWhatIsComputed : Prop :=
  (∀ (is : List Instr) (s s' : State), withoutTiming s = withoutTiming s' → (∀ i ∈ is, i ≠ .synGran) →
    mapNext withoutTiming (runOperations is s) = mapNext withoutTiming (runOperations is s')) ∧
  ∀ (is : List Instr) (s s' : State), withoutTimingAndResult s = withoutTimingAndResult s' →
    mapNext withoutTimingAndResult (runOperations is s) = mapNext withoutTimingAndResult (runOperations is s')

/-! ### Session operations -/

/-- 44_session.md section SYS.RESET (decisions D4, D9, D12, D13, D17, D35; log 9, 10, 14, 25): what SYS.RESET writes; NOW, the pins and
the parameters stay, and OUT only gains SessionReset. That the model's own fields stay too is the model's choice: the arrived inputs
(log 1), the count of free reads (log 7) and the held operations, of which over a reset the spec says nothing (log 2, unsafe). -/
def Obligations.SessionResetWritesTheResetValues : Prop :=
  ∀ s : State, exec .sysReset s = .next { s with
    psel := 0
    vx := s.setup.resetVx
    vy := s.setup.resetVy
    vcmd := s.setup.resetVcmd
    vdata := s.setup.resetVdata
    vprev := s.setup.resetVprev
    vtrig := s.setup.resetVtrig
    alatch := s.setup.resetAlatch
    areset := .asserted
    airq := false
    astate := .audioHalted
    windows := []
    drift := false
    out := s.out ++ [.sessionReset]
    result := .none }

/-- R203: SYS.SAVE returns the six fields as 48 bits, the selector first, and changes nothing; the first byte is at most 5. -/
def Obligations.SaveReturnsTheSixFields : Prop :=
  Instr.sysSave.issuer = .host ∧ encode .sysSave = 0x4100000000000000#64 ∧
  ∀ s : State, ∃ m : BitVec 48, exec .sysSave s = .next { s with result := .image m } ∧
    (m.extractLsb' 40 8).toNat = s.psel.val ∧ (m.extractLsb' 40 8).toNat ≤ 5 ∧ m.extractLsb' 32 8 = s.vx ∧
    m.extractLsb' 24 8 = s.vy ∧ m.extractLsb' 16 8 = s.vcmd ∧ m.extractLsb' 8 8 = s.vdata ∧ m.extractLsb' 0 8 = s.vprev

/-- 44_session.md section SYS.RESTORE (decision D11 for the bound): the six fields are written and nothing else. -/
def Obligations.RestoreWritesTheSixFieldsOnly : Prop :=
  ∀ (i0 i1 i2 i3 i4 i5 : Byte) (s : State), i0.toNat ≤ 5 → ∃ k : Index, k.val = i0.toNat ∧
    exec (.sysRestore i0 i1 i2 i3 i4 i5) s =
      .next { s with psel := k, vx := i1, vy := i2, vcmd := i3, vdata := i4, vprev := i5, result := .none }

/-- 44_session.md section SYS.RESTORE (its derivation of the round trip): an image saved in one state and restored in any other gives
back the image, the routing of the read port and the engine's view. -/
def Obligations.SaveThenRestoreGivesBackTheSession : Prop :=
  ∀ (s s' t : State) (m : BitVec 48), exec .sysSave s = .next t → t.result = .image m →
    ∃ u, exec (restoreOf m) s' = .next u ∧ (restoreOf m).wellFormed = true ∧
      (∃ u', exec .sysSave u = .next u' ∧ u'.result = .image m) ∧
      portData u = s'.pins[s.psel] ∧
      (∃ e v v', exec .vidEstate s = .next v ∧ exec .vidEstate u = .next v' ∧ v.result = .video e ∧ v'.result = .video e)

/-- 44_session.md section SYS.SETIN (decision D27): exactly the group k is driven with v; no element of CORE changes. -/
def Obligations.SetinDrivesOneGroup : Prop :=
  ∀ (k : BitVec 3) (v : Byte) (s : State), k.toNat ≤ 5 → ∃ t, exec (.sysSetin k v) s = .next t ∧
    t = { s with pins := t.pins, result := .none } ∧
    ∀ j : Index, (j.val = k.toNat → t.pins[j] = some v) ∧ (j.val ≠ k.toNat → t.pins[j] = s.pins[j])

/-! ### The whole machine -/

/-- 10_state.md section 4: no operation writes the parameters, and they stay over a step, too. 10_state.md section 2 and 44_session.md
section SYS.SETIN: only SYS.SETIN drives the pins; that there is such an operation is decision D27 (log 7). -/
def Obligations.ParametersNeverChange : Prop :=
  (∀ (i : Instr) (s t : State), exec i s = .next t →
    t.setup = s.setup ∧ ((∀ k v, i ≠ .sysSetin k v) → t.pins = s.pins)) ∧
  (∀ s t : State, step s = .next t → t.setup = s.setup)

/-- 10_state.md section 1 (the owner column): each element is written only by its own unit's operations and the session
operations. -/
def Obligations.EachElementIsWrittenByItsOwner : Prop :=
  ∀ (i : Instr) (s t : State), exec i s = .next t → i.unitFn.1 ≠ 4#4 →
    (i.unitFn.1 ≠ 0#4 → t.psel = s.psel) ∧
    (i.unitFn.1 ≠ 1#4 → t.vx = s.vx ∧ t.vy = s.vy ∧ t.vcmd = s.vcmd ∧ t.vdata = s.vdata ∧ t.vprev = s.vprev ∧
      t.vtrig = s.vtrig) ∧
    (i.unitFn.1 ≠ 2#4 → t.alatch = s.alatch ∧ t.areset = s.areset ∧ t.airq = s.airq ∧ t.astate = s.astate) ∧
    (i.unitFn.1 ≠ 3#4 → t.now = s.now ∧ t.drift = s.drift ∧ (i.unitFn.1 ≠ 2#4 → t.windows = s.windows))

/-- 10_state.md section 5 (decision D30): no step removes or reorders events of OUT. -/
def Obligations.EventsAreOnlyAppended : Prop :=
  ∀ s t : State, step s = .next t → ∃ es, t.out = s.out ++ es

/-- R37, R161: the output lines as functions of the state. -/
def Obligations.OutputLinesFollowTheState : Prop :=
  ∀ s : State,
    (aCpuReset s = true ↔ s.areset = .asserted) ∧ (aTimerReset s = true ↔ s.areset = .asserted) ∧ mainIrq s = s.airq ∧
    portData s = s.pins[s.psel] ∧ aPortIn s = s.alatch ∧
    exec .synGran s = .next { s with result := .time (granLine s) }

/-- The invariant `Inv` (10_state.md section 4, 42_audio_channel.md, 43_synchronizer.md, 60_exceptions.md) holds at reset;
its reset values rest on decisions D13 and D17 (log 10, 14). -/
def Obligations.ResetMeetsTheInvariant : Prop := Inv State.reset ∧ ∀ p, Inv (State.powerOn p)

/-- The invariant `Inv` is kept by every step from every state that meets it: halted exactly while asserted, the interrupt low in
reset (decision D17, log 14), only live and ordered windows, only audio operations held, OUT beginning with the power-on marker. -/
def Obligations.EveryStepKeepsTheInvariant : Prop :=
  ∀ s t : State, Inv s → step s = .next t → Inv t

/-! ### The bus view -/

/-- 20_memory.md section 1 (decision D26): inside the span an address reaches register `(a - B) mod N`, every mirror reaches the
same register, and outside the span nothing is reached. -/
def Obligations.MirrorsReachTheSameRegister : Prop :=
  ∀ (w : AdapterWindow) (a : Nat),
    (w.base ≤ a ∧ a < w.base + 2 ^ (w.regBits + w.mirrorBits) → windowRegister w a = some ((a - w.base) % 2 ^ w.regBits)) ∧
    (¬(w.base ≤ a ∧ a < w.base + 2 ^ (w.regBits + w.mirrorBits)) → windowRegister w a = none) ∧
    (∀ r, windowRegister w a = some r → r < 2 ^ w.regBits ∧
      (a + 2 ^ w.regBits < w.base + 2 ^ (w.regBits + w.mirrorBits) → windowRegister w (a + 2 ^ w.regBits) = some r))

/-- 41_video_channel.md section "Properties of the family" and 20_memory.md section 1 (decision D26): without the
binding of the session's variant every bus access is refused by name. -/
def Obligations.BusIsRefusedWithoutABinding : Prop :=
  ∀ (s : State) (acc : Input) (rest : List Input), s.setup.periodicResetEnable = false → s.inbox = acc :: rest →
    (∀ w, acc ≠ .word w) → acc ≠ .resume →
    ((s.setup.variant = .a ∧ s.setup.bindingA = none) ∨ (s.setup.variant = .b ∧ s.setup.bindingB = none)) →
    step s = .refused .bindingNotSupplied

/-- 20_memory.md section 1 (decision D26): what a bus access does when the variant's binding is supplied. A byte that
the main element writes to a bound register performs the bound operation with that byte, and to an unbound one performs nothing; a
bound read of the main element is PSEL.READ, one of the audio element is AUD.RLATCH; a bound control line performs its operation
with the driven level, whatever the windows are. The audio element's two are performed when it holds no earlier one (log 2). That an
access to nothing bound only passes is the model's choice, log 21. -/
def Obligations.BusAccessPerformsTheBoundOperation : Prop :=
  ∀ (s : State) (b : Binding) (rest : List Input),
    s.setup.periodicResetEnable = false →
    (s.setup.variant = .a ∧ s.setup.bindingA = some b ∨ s.setup.variant = .b ∧ s.setup.bindingB = some b) →
    (∀ a r v, s.inbox = .memWrite .main a v :: rest → busRegister s.setup.windows.main a = some r →
      (boundTo r b.mainWrites = some .vidWdata → step s = exec (.vidWdata v) { s with inbox := rest }) ∧
      (boundTo r b.mainWrites = some .vidWcmd → step s = exec (.vidWcmd v) { s with inbox := rest }) ∧
      (boundTo r b.mainWrites = some .audWcmd → step s = exec (.audWcmd v) { s with inbox := rest }) ∧
      (boundTo r b.mainWrites = some .pselSelect → step s = exec (.pselSelect v) { s with inbox := rest }) ∧
      (boundTo r b.mainWrites = none → step s = .next { s with inbox := rest, result := .none })) ∧
    (∀ a r, s.inbox = .memRead .main a :: rest → busRegister s.setup.windows.main a = some r → r ∈ b.mainReads →
      step s = exec .pselRead { s with inbox := rest }) ∧
    (∀ a r, s.inbox = .memRead .audio a :: rest → busRegister s.setup.windows.audio a = some r → r ∈ b.audioReads →
      (s.areset = .asserted ∨ s.held = []) → step s = exec .audRlatch { s with inbox := rest }) ∧
    (∀ l level, s.inbox = .line l level :: rest →
      (boundTo l b.lines = some .vidTrig → step s = exec (.vidTrig level) { s with inbox := rest }) ∧
      (boundTo l b.lines = some .audWtrig → step s = exec (.audWtrig level) { s with inbox := rest }) ∧
      (boundTo l b.lines = some .audReset → step s = exec (.audReset level) { s with inbox := rest }) ∧
      (boundTo l b.lines = some .audIrq → (s.areset = .asserted ∨ s.held = []) →
        step s = exec (.audIrq level) { s with inbox := rest }))

/-! ### The text syntax -/

/-- 30_encoding.md section 7 (decision D34): every operation that a line of text stands for is well formed, so it has a word. -/
def Obligations.LinesOfTextStandForTransactions : Prop :=
  ∀ (p : Setup) (line : List Char) (is : List Instr), readLine p line = .ok is →
    ∀ i ∈ is, i.wellFormed = true ∧ decode (encode i) = .ok i
end

