-- ==== Sys2Proof/Laws/Decode.lean ====
section
/-! SUPPORT. The fields of an assembled word, a word as the assembly of its fields, and the operand classes read back. -/

namespace Sys2Proof

/-! ### Fields of an assembled word (R90) -/

theorem layout_getLsbD (u f : BitVec 4) (r : Byte) (o : Operand) (i : Nat) :
    (u ++ f ++ r ++ o : BitVec (4 + 4 + 8 + 48)).getLsbD i =
      if i < 48 then o.getLsbD i else if i < 56 then r.getLsbD (i - 48) else if i < 60 then f.getLsbD (i - 56)
      else u.getLsbD (i - 60) := by
  simp only [BitVec.getLsbD_append]
  by_cases h1 : i < 48
  · simp only [h1, if_true]
  · by_cases h2 : i < 56
    · have n : i - 48 < 8 := by omega
      simp only [h1, h2, n, if_true, if_false]
    · have n : ¬ i - 48 < 8 := by omega
      by_cases h3 : i < 60
      · have e : i - 48 - 8 = i - 56 := by omega
        have n3 : i - 56 < 4 := by omega
        simp only [h1, h2, h3, n, n3, if_true, if_false, e]
      · have n3 : ¬ i - 48 - 8 < 4 := by omega
        have e : i - 48 - 8 - 4 = i - 60 := by omega
        simp only [h1, h2, h3, n, n3, if_false, e]

theorem assembleWord_getLsbD (u f : BitVec 4) (o : Operand) (i : Nat) :
    (assembleWord u f o).getLsbD i =
      if i < 48 then o.getLsbD i else if i < 56 then false else if i < 60 then f.getLsbD (i - 56) else u.getLsbD (i - 60) := by
  exact (layout_getLsbD u f 0#8 o i).trans (by simp only [BitVec.getLsbD_zero])

@[simp] theorem unitField_assembleWord (u f : BitVec 4) (o : Operand) : unitField (assembleWord u f o) = u := by
  apply BitVec.eq_of_getLsbD_eq
  intro i hi
  have h1 : ¬ 60 + i < 48 := by omega
  have h2 : ¬ 60 + i < 56 := by omega
  have h3 : ¬ 60 + i < 60 := by omega
  have e : 60 + i - 60 = i := by omega
  simp [unitField, assembleWord_getLsbD, h1, h2, h3, e, hi]

@[simp] theorem fnField_assembleWord (u f : BitVec 4) (o : Operand) : fnField (assembleWord u f o) = f := by
  apply BitVec.eq_of_getLsbD_eq
  intro i hi
  have h1 : ¬ 56 + i < 48 := by omega
  have h2 : ¬ 56 + i < 56 := by omega
  have h3 : 56 + i < 60 := by omega
  have e : 56 + i - 56 = i := by omega
  simp [fnField, assembleWord_getLsbD, h1, h2, h3, e, hi]

@[simp] theorem rsvField_assembleWord (u f : BitVec 4) (o : Operand) : rsvField (assembleWord u f o) = 0#8 := by
  apply BitVec.eq_of_getLsbD_eq
  intro i hi
  have h1 : ¬ 48 + i < 48 := by omega
  have h2 : 48 + i < 56 := by omega
  simp [rsvField, assembleWord_getLsbD, h1, h2]

@[simp] theorem opndField_assembleWord (u f : BitVec 4) (o : Operand) : opndField (assembleWord u f o) = o := by
  apply BitVec.eq_of_getLsbD_eq
  intro i hi
  simp [opndField, assembleWord_getLsbD, hi]

/-- A word whose reserved field is 0 is the assembly of its other fields. -/
theorem assembleWord_fields {w : Word} (h : rsvField w = 0#8) : assembleWord (unitField w) (fnField w) (opndField w) = w := by
  apply BitVec.eq_of_getLsbD_eq
  intro i hi
  rw [assembleWord_getLsbD]
  split
  · simp [opndField, *]
  · split
    · rename_i h1 h2
      have hb := congrArg (fun v : Byte => v.getLsbD (i - 48)) h
      have e : 48 + (i - 48) = i := by omega
      have hlt : i - 48 < 8 := by omega
      simpa [rsvField, e, hlt] using hb.symm
    · split
      · rename_i h1 h2 h3
        have e : 56 + (i - 56) = i := by omega
        have hlt : i - 56 < 4 := by omega
        simp [fnField, e, hlt]
      · rename_i h1 h2 h3
        have e : 60 + (i - 60) = i := by omega
        have hlt : i - 60 < 4 := by omega
        simp [unitField, e, hlt]

/-! ### Reading a part of an appended operand -/

theorem extractLsb'_append_high {a b : Nat} (x : BitVec a) (y : BitVec b) : (x ++ y).extractLsb' b a = x := by
  apply BitVec.eq_of_getLsbD_eq
  intro i hi
  have h1 : ¬ b + i < b := by omega
  simp [BitVec.getLsbD_append, h1, hi]

theorem extractLsb'_append_low {a b : Nat} (x : BitVec a) (y : BitVec b) : (x ++ y).extractLsb' 0 b = y := by
  apply BitVec.eq_of_getLsbD_eq
  intro i hi
  simp [BitVec.getLsbD_append, hi]

/-- A part that lies in the low operand of an append is the part of that operand. -/
theorem extractLsb'_append_of_le {a b start len : Nat} (x : BitVec a) (y : BitVec b) (h : start + len ≤ b) :
    (x ++ y).extractLsb' start len = y.extractLsb' start len := by
  apply BitVec.eq_of_getLsbD_eq
  intro i hi
  have h1 : start + i < b := by omega
  simp [BitVec.getLsbD_append, h1]

/-- A part that lies in the high operand of an append is the part of that operand. -/
theorem extractLsb'_append_of_ge {a b start len : Nat} (x : BitVec a) (y : BitVec b) (h : b ≤ start) :
    (x ++ y).extractLsb' start len = x.extractLsb' (start - b) len := by
  apply BitVec.eq_of_getLsbD_eq
  intro i hi
  have h1 : ¬ start + i < b := by omega
  have e : start + i - b = start - b + i := by omega
  simp [BitVec.getLsbD_append, h1, e]

theorem extractLsb'_all {n : Nat} (x : BitVec n) : x.extractLsb' 0 n = x := by
  apply BitVec.eq_of_getLsbD_eq
  intro i hi
  simp [hi]

/-- Two adjacent parts of a bit vector make the part that spans both. -/
theorem extractLsb'_append_extractLsb' {n m k : Nat} (x : BitVec n) (start : Nat) :
    x.extractLsb' (start + k) m ++ x.extractLsb' start k = x.extractLsb' start (m + k) := by
  apply BitVec.eq_of_getLsbD_eq
  intro i hi
  rw [BitVec.getLsbD_append]
  by_cases h : i < k
  · have h' : i < m + k := by omega
    simp only [h, h', if_true, BitVec.getLsbD_extractLsb', decide_true, Bool.true_and]
  · have e : start + k + (i - k) = start + i := by omega
    have hlt : i - k < m := by omega
    simp only [h, hi, hlt, if_false, BitVec.getLsbD_extractLsb', decide_true, Bool.true_and, e]

/-- The six bytes of a 48-bit image (R202). -/
theorem image_bytes (i0 i1 i2 i3 i4 i5 : Byte) :
    BitVec.extractLsb' (n := 48) 40 8 (i0 ++ i1 ++ i2 ++ i3 ++ i4 ++ i5) = i0 ∧
    BitVec.extractLsb' (n := 48) 32 8 (i0 ++ i1 ++ i2 ++ i3 ++ i4 ++ i5) = i1 ∧
    BitVec.extractLsb' (n := 48) 24 8 (i0 ++ i1 ++ i2 ++ i3 ++ i4 ++ i5) = i2 ∧
    BitVec.extractLsb' (n := 48) 16 8 (i0 ++ i1 ++ i2 ++ i3 ++ i4 ++ i5) = i3 ∧
    BitVec.extractLsb' (n := 48) 8 8 (i0 ++ i1 ++ i2 ++ i3 ++ i4 ++ i5) = i4 ∧
    BitVec.extractLsb' (n := 48) 0 8 (i0 ++ i1 ++ i2 ++ i3 ++ i4 ++ i5) = i5 := by
  have up {a : Nat} (start : Nat) (x : BitVec a) (y : Byte) (h : 8 ≤ start) := extractLsb'_append_of_ge (len := 8) x y h
  refine ⟨?_, ?_, ?_, ?_, ?_, ?_⟩
  · exact (up 40 _ i5 (by decide)).trans ((up 32 _ i4 (by decide)).trans ((up 24 _ i3 (by decide)).trans
      ((up 16 _ i2 (by decide)).trans (extractLsb'_append_high i0 i1))))
  · exact (up 32 _ i5 (by decide)).trans ((up 24 _ i4 (by decide)).trans ((up 16 _ i3 (by decide)).trans
      ((up 8 _ i2 (by decide)).trans (extractLsb'_append_low i0 i1))))
  · exact (up 24 _ i5 (by decide)).trans ((up 16 _ i4 (by decide)).trans ((up 8 _ i3 (by decide)).trans
      (extractLsb'_append_low (i0 ++ i1) i2)))
  · exact (up 16 _ i5 (by decide)).trans ((up 8 _ i4 (by decide)).trans (extractLsb'_append_low (i0 ++ i1 ++ i2) i3))
  · exact (up 8 _ i5 (by decide)).trans (extractLsb'_append_low (i0 ++ i1 ++ i2 ++ i3) i4)
  · exact extractLsb'_append_low (i0 ++ i1 ++ i2 ++ i3 ++ i4) i5

/-! ### The operand classes read back what they wrote (R92) -/

@[simp] theorem decodeN_zero (i : Instr) : decodeN i 0#48 = .ok i := by simp [decodeN]

@[simp] theorem decodeB_append (f : Byte → Instr) (b : Byte) : decodeB f (0#40 ++ b) = .ok (f b) := by
  unfold decodeB
  rw [extractLsb'_append_high, extractLsb'_append_low, if_pos rfl]

@[simp] theorem decodeL_append (f : Level → Instr) (l : Level) : decodeL f (0#47 ++ levelBits 1 l) = .ok (f l) := by
  unfold decodeL
  rw [extractLsb'_append_high, if_pos rfl]
  cases l <;> rfl

/-! ### What an operand class can give (R92) -/

theorem decodeN_eq_ok {i j : Instr} {o : Operand} (h : decodeN i o = .ok j) : j = i ∧ o = 0#48 := by
  unfold decodeN at h; split at h <;> simp_all

theorem decodeB_eq_ok {f : Byte → Instr} {j : Instr} {o : Operand} (h : decodeB f o = .ok j) :
    ∃ b, j = f b ∧ o = 0#40 ++ b := by
  unfold decodeB at h; split at h
  · rename_i h0
    refine ⟨_, by simpa using h.symm, ?_⟩
    rw [← h0]
    exact ((extractLsb'_append_extractLsb' (m := 40) (k := 8) o 0).trans (extractLsb'_all o)).symm
  · simp at h

theorem decodeL_eq_ok {f : Level → Instr} {j : Instr} {o : Operand} (h : decodeL f o = .ok j) :
    ∃ b, j = f b ∧ o = 0#47 ++ levelBits 1 b := by
  unfold decodeL at h; split at h
  · rename_i h0
    refine ⟨_, by simpa using h.symm, ?_⟩
    rw [← h0]
    have : levelBits 1 (o.getLsbD 0) = o.extractLsb' 0 1 := by
      apply BitVec.eq_of_getLsbD_eq
      intro i hi
      have : i = 0 := by omega
      subst this
      cases hb : o.getLsbD 0 <;> (simp [levelBits, hb]; try simp_all)
    exact ((congrArg (_ ++ ·) this).trans
      ((extractLsb'_append_extractLsb' (m := 47) (k := 1) o 0).trans (extractLsb'_all o))).symm
  · simp at h

theorem decodeI_eq_ok {j : Instr} {o : Operand} (h : decodeI .sysRestore o = .ok j) :
    j.wellFormed = true ∧ j.operand = o ∧ j.unitFn = (4#4, 2#4) := by
  unfold decodeI at h; split at h
  · rename_i h0
    simp at h; subst h
    refine ⟨by simpa [Instr.wellFormed] using h0, ?_, rfl⟩
    simp only [Instr.operand]
    have a1 := extractLsb'_append_extractLsb' (m := 8) (k := 8) o 32
    have a2 := extractLsb'_append_extractLsb' (m := 16) (k := 8) o 24
    have a3 := extractLsb'_append_extractLsb' (m := 24) (k := 8) o 16
    have a4 := extractLsb'_append_extractLsb' (m := 32) (k := 8) o 8
    have a5 := extractLsb'_append_extractLsb' (m := 40) (k := 8) o 0
    rw [a1, a2, a3, a4]
    exact a5.trans (extractLsb'_all o)
  · simp at h

theorem decodeK_eq_ok {j : Instr} {o : Operand} (h : decodeK .sysSetin o = .ok j) :
    j.wellFormed = true ∧ j.operand = o ∧ j.unitFn = (4#4, 3#4) := by
  unfold decodeK at h; split at h
  · rename_i h0
    split at h
    · rename_i h1
      simp at h; subst h
      refine ⟨by simpa [Instr.wellFormed] using h1, ?_, rfl⟩
      simp only [Instr.operand]
      rw [← h0]
      have a1 := extractLsb'_append_extractLsb' (m := 37) (k := 3) o 8
      have a2 := extractLsb'_append_extractLsb' (m := 40) (k := 8) o 0
      rw [a1]; exact a2.trans (extractLsb'_all o)
    · simp at h
  · simp at h

end Sys2Proof
end

