-- ==== Sys2Proof/Laws/State.lean ====
section
/-! SUPPORT. One lemma per field of State per shared operation, so that no proof unfolds a record update. -/

namespace Sys2Proof.Machine

/-! ### `emit` (R44) -/

@[simp] theorem emit_psel (e : Event) (s : State) : (emit e s).psel = s.psel := rfl
@[simp] theorem emit_vx (e : Event) (s : State) : (emit e s).vx = s.vx := rfl
@[simp] theorem emit_vy (e : Event) (s : State) : (emit e s).vy = s.vy := rfl
@[simp] theorem emit_vcmd (e : Event) (s : State) : (emit e s).vcmd = s.vcmd := rfl
@[simp] theorem emit_vdata (e : Event) (s : State) : (emit e s).vdata = s.vdata := rfl
@[simp] theorem emit_vprev (e : Event) (s : State) : (emit e s).vprev = s.vprev := rfl
@[simp] theorem emit_vtrig (e : Event) (s : State) : (emit e s).vtrig = s.vtrig := rfl
@[simp] theorem emit_alatch (e : Event) (s : State) : (emit e s).alatch = s.alatch := rfl
@[simp] theorem emit_areset (e : Event) (s : State) : (emit e s).areset = s.areset := rfl
@[simp] theorem emit_airq (e : Event) (s : State) : (emit e s).airq = s.airq := rfl
@[simp] theorem emit_astate (e : Event) (s : State) : (emit e s).astate = s.astate := rfl
@[simp] theorem emit_windows (e : Event) (s : State) : (emit e s).windows = s.windows := rfl
@[simp] theorem emit_now (e : Event) (s : State) : (emit e s).now = s.now := rfl
@[simp] theorem emit_drift (e : Event) (s : State) : (emit e s).drift = s.drift := rfl
@[simp] theorem emit_out (e : Event) (s : State) : (emit e s).out = s.out ++ [e] := rfl
@[simp] theorem emit_pins (e : Event) (s : State) : (emit e s).pins = s.pins := rfl
@[simp] theorem emit_setup (e : Event) (s : State) : (emit e s).setup = s.setup := rfl
@[simp] theorem emit_inbox (e : Event) (s : State) : (emit e s).inbox = s.inbox := rfl
@[simp] theorem emit_held (e : Event) (s : State) : (emit e s).held = s.held := rfl
@[simp] theorem emit_result (e : Event) (s : State) : (emit e s).result = s.result := rfl
@[simp] theorem emit_freeCount (e : Event) (s : State) : (emit e s).freeCount = s.freeCount := rfl

/-! ### `tighten` (R181) -/

@[simp] theorem tighten_psel (g : Nat) (s : State) : (tighten g s).psel = s.psel := rfl
@[simp] theorem tighten_vx (g : Nat) (s : State) : (tighten g s).vx = s.vx := rfl
@[simp] theorem tighten_vy (g : Nat) (s : State) : (tighten g s).vy = s.vy := rfl
@[simp] theorem tighten_vcmd (g : Nat) (s : State) : (tighten g s).vcmd = s.vcmd := rfl
@[simp] theorem tighten_vdata (g : Nat) (s : State) : (tighten g s).vdata = s.vdata := rfl
@[simp] theorem tighten_vprev (g : Nat) (s : State) : (tighten g s).vprev = s.vprev := rfl
@[simp] theorem tighten_vtrig (g : Nat) (s : State) : (tighten g s).vtrig = s.vtrig := rfl
@[simp] theorem tighten_alatch (g : Nat) (s : State) : (tighten g s).alatch = s.alatch := rfl
@[simp] theorem tighten_areset (g : Nat) (s : State) : (tighten g s).areset = s.areset := rfl
@[simp] theorem tighten_airq (g : Nat) (s : State) : (tighten g s).airq = s.airq := rfl
@[simp] theorem tighten_astate (g : Nat) (s : State) : (tighten g s).astate = s.astate := rfl
@[simp] theorem tighten_windows (g : Nat) (s : State) : (tighten g s).windows = insertTightening ⟨g, s.now + wTighten s.setup⟩ s.windows := rfl
@[simp] theorem tighten_now (g : Nat) (s : State) : (tighten g s).now = s.now := rfl
@[simp] theorem tighten_drift (g : Nat) (s : State) : (tighten g s).drift = s.drift := rfl
@[simp] theorem tighten_out (g : Nat) (s : State) : (tighten g s).out = s.out ++ [.tighten g] := rfl
@[simp] theorem tighten_pins (g : Nat) (s : State) : (tighten g s).pins = s.pins := rfl
@[simp] theorem tighten_setup (g : Nat) (s : State) : (tighten g s).setup = s.setup := rfl
@[simp] theorem tighten_inbox (g : Nat) (s : State) : (tighten g s).inbox = s.inbox := rfl
@[simp] theorem tighten_held (g : Nat) (s : State) : (tighten g s).held = s.held := rfl
@[simp] theorem tighten_result (g : Nat) (s : State) : (tighten g s).result = s.result := rfl
@[simp] theorem tighten_freeCount (g : Nat) (s : State) : (tighten g s).freeCount = s.freeCount := rfl

/-! ### `advance` (R186) -/

@[simp] theorem advance_psel (dt : Nat) (s : State) : (advance dt s).psel = s.psel := rfl
@[simp] theorem advance_vx (dt : Nat) (s : State) : (advance dt s).vx = s.vx := rfl
@[simp] theorem advance_vy (dt : Nat) (s : State) : (advance dt s).vy = s.vy := rfl
@[simp] theorem advance_vcmd (dt : Nat) (s : State) : (advance dt s).vcmd = s.vcmd := rfl
@[simp] theorem advance_vdata (dt : Nat) (s : State) : (advance dt s).vdata = s.vdata := rfl
@[simp] theorem advance_vprev (dt : Nat) (s : State) : (advance dt s).vprev = s.vprev := rfl
@[simp] theorem advance_vtrig (dt : Nat) (s : State) : (advance dt s).vtrig = s.vtrig := rfl
@[simp] theorem advance_alatch (dt : Nat) (s : State) : (advance dt s).alatch = s.alatch := rfl
@[simp] theorem advance_areset (dt : Nat) (s : State) : (advance dt s).areset = s.areset := rfl
@[simp] theorem advance_airq (dt : Nat) (s : State) : (advance dt s).airq = s.airq := rfl
@[simp] theorem advance_astate (dt : Nat) (s : State) : (advance dt s).astate = s.astate := rfl
@[simp] theorem advance_windows (dt : Nat) (s : State) : (advance dt s).windows = s.windows.filter (inForce (s.now + dt)) := rfl
@[simp] theorem advance_now (dt : Nat) (s : State) : (advance dt s).now = s.now + dt := rfl
@[simp] theorem advance_drift (dt : Nat) (s : State) : (advance dt s).drift = (s.drift || decide (gran s < dt)) := rfl
@[simp] theorem advance_out (dt : Nat) (s : State) : (advance dt s).out = s.out := rfl
@[simp] theorem advance_pins (dt : Nat) (s : State) : (advance dt s).pins = s.pins := rfl
@[simp] theorem advance_setup (dt : Nat) (s : State) : (advance dt s).setup = s.setup := rfl
@[simp] theorem advance_inbox (dt : Nat) (s : State) : (advance dt s).inbox = s.inbox := rfl
@[simp] theorem advance_held (dt : Nat) (s : State) : (advance dt s).held = s.held := rfl
@[simp] theorem advance_result (dt : Nat) (s : State) : (advance dt s).result = s.result := rfl
@[simp] theorem advance_freeCount (dt : Nat) (s : State) : (advance dt s).freeCount = s.freeCount := rfl

/-! ### `deliver` (R134) -/

@[simp] theorem deliver_psel (s : State) : (deliver s).psel = s.psel := rfl
@[simp] theorem deliver_vx (s : State) : (deliver s).vx = (engineXY s.setup.engineXY s.vcmd s.vdata s.vx s.vy).1 := rfl
@[simp] theorem deliver_vy (s : State) : (deliver s).vy = (engineXY s.setup.engineXY s.vcmd s.vdata s.vx s.vy).2 := rfl
@[simp] theorem deliver_vcmd (s : State) : (deliver s).vcmd = s.vcmd := rfl
@[simp] theorem deliver_vdata (s : State) : (deliver s).vdata = s.vdata := rfl
@[simp] theorem deliver_vprev (s : State) : (deliver s).vprev = s.vcmd := rfl
@[simp] theorem deliver_vtrig (s : State) : (deliver s).vtrig = s.vtrig := rfl
@[simp] theorem deliver_alatch (s : State) : (deliver s).alatch = s.alatch := rfl
@[simp] theorem deliver_areset (s : State) : (deliver s).areset = s.areset := rfl
@[simp] theorem deliver_airq (s : State) : (deliver s).airq = s.airq := rfl
@[simp] theorem deliver_astate (s : State) : (deliver s).astate = s.astate := rfl
@[simp] theorem deliver_windows (s : State) : (deliver s).windows = s.windows := rfl
@[simp] theorem deliver_now (s : State) : (deliver s).now = s.now := rfl
@[simp] theorem deliver_drift (s : State) : (deliver s).drift = s.drift := rfl
@[simp] theorem deliver_out (s : State) : (deliver s).out = s.out ++ [.draw s.vcmd s.vdata s.vprev] := rfl
@[simp] theorem deliver_pins (s : State) : (deliver s).pins = s.pins := rfl
@[simp] theorem deliver_setup (s : State) : (deliver s).setup = s.setup := rfl
@[simp] theorem deliver_inbox (s : State) : (deliver s).inbox = s.inbox := rfl
@[simp] theorem deliver_held (s : State) : (deliver s).held = s.held := rfl
@[simp] theorem deliver_result (s : State) : (deliver s).result = s.result := rfl
@[simp] theorem deliver_freeCount (s : State) : (deliver s).freeCount = s.freeCount := rfl

/-! ### `writeLatch` (R150 to R152) -/

@[simp] theorem writeLatch_psel (new : Byte) (s : State) : (writeLatch new s).psel = s.psel := rfl
@[simp] theorem writeLatch_vx (new : Byte) (s : State) : (writeLatch new s).vx = s.vx := rfl
@[simp] theorem writeLatch_vy (new : Byte) (s : State) : (writeLatch new s).vy = s.vy := rfl
@[simp] theorem writeLatch_vcmd (new : Byte) (s : State) : (writeLatch new s).vcmd = s.vcmd := rfl
@[simp] theorem writeLatch_vdata (new : Byte) (s : State) : (writeLatch new s).vdata = s.vdata := rfl
@[simp] theorem writeLatch_vprev (new : Byte) (s : State) : (writeLatch new s).vprev = s.vprev := rfl
@[simp] theorem writeLatch_vtrig (new : Byte) (s : State) : (writeLatch new s).vtrig = s.vtrig := rfl
@[simp] theorem writeLatch_alatch (new : Byte) (s : State) : (writeLatch new s).alatch = new := rfl
@[simp] theorem writeLatch_areset (new : Byte) (s : State) : (writeLatch new s).areset = s.areset := rfl
@[simp] theorem writeLatch_airq (new : Byte) (s : State) : (writeLatch new s).airq = s.airq := rfl
@[simp] theorem writeLatch_astate (new : Byte) (s : State) : (writeLatch new s).astate = if s.astate = .idle ∧ new ≠ s.alatch then .awaitingAck else s.astate := rfl
@[simp] theorem writeLatch_windows (new : Byte) (s : State) : (writeLatch new s).windows = s.windows := rfl
@[simp] theorem writeLatch_now (new : Byte) (s : State) : (writeLatch new s).now = s.now := rfl
@[simp] theorem writeLatch_drift (new : Byte) (s : State) : (writeLatch new s).drift = s.drift := rfl
@[simp] theorem writeLatch_out (new : Byte) (s : State) : (writeLatch new s).out = s.out := rfl
@[simp] theorem writeLatch_pins (new : Byte) (s : State) : (writeLatch new s).pins = s.pins := rfl
@[simp] theorem writeLatch_setup (new : Byte) (s : State) : (writeLatch new s).setup = s.setup := rfl
@[simp] theorem writeLatch_inbox (new : Byte) (s : State) : (writeLatch new s).inbox = s.inbox := rfl
@[simp] theorem writeLatch_held (new : Byte) (s : State) : (writeLatch new s).held = s.held := rfl
@[simp] theorem writeLatch_result (new : Byte) (s : State) : (writeLatch new s).result = s.result := rfl
@[simp] theorem writeLatch_freeCount (new : Byte) (s : State) : (writeLatch new s).freeCount = s.freeCount := rfl

/-! ### `assertReset` (R156) -/

@[simp] theorem assertReset_psel (s : State) : (assertReset s).psel = s.psel := rfl
@[simp] theorem assertReset_vx (s : State) : (assertReset s).vx = s.vx := rfl
@[simp] theorem assertReset_vy (s : State) : (assertReset s).vy = s.vy := rfl
@[simp] theorem assertReset_vcmd (s : State) : (assertReset s).vcmd = s.vcmd := rfl
@[simp] theorem assertReset_vdata (s : State) : (assertReset s).vdata = s.vdata := rfl
@[simp] theorem assertReset_vprev (s : State) : (assertReset s).vprev = s.vprev := rfl
@[simp] theorem assertReset_vtrig (s : State) : (assertReset s).vtrig = s.vtrig := rfl
@[simp] theorem assertReset_alatch (s : State) : (assertReset s).alatch = s.alatch := rfl
@[simp] theorem assertReset_areset (s : State) : (assertReset s).areset = .asserted := rfl
@[simp] theorem assertReset_airq (s : State) : (assertReset s).airq = false := rfl
@[simp] theorem assertReset_astate (s : State) : (assertReset s).astate = .audioHalted := rfl
@[simp] theorem assertReset_windows (s : State) : (assertReset s).windows = s.windows := rfl
@[simp] theorem assertReset_now (s : State) : (assertReset s).now = s.now := rfl
@[simp] theorem assertReset_drift (s : State) : (assertReset s).drift = s.drift := rfl
@[simp] theorem assertReset_out (s : State) : (assertReset s).out = s.out := rfl
@[simp] theorem assertReset_pins (s : State) : (assertReset s).pins = s.pins := rfl
@[simp] theorem assertReset_setup (s : State) : (assertReset s).setup = s.setup := rfl
@[simp] theorem assertReset_inbox (s : State) : (assertReset s).inbox = s.inbox := rfl
@[simp] theorem assertReset_held (s : State) : (assertReset s).held = s.held := rfl
@[simp] theorem assertReset_result (s : State) : (assertReset s).result = s.result := rfl
@[simp] theorem assertReset_freeCount (s : State) : (assertReset s).freeCount = s.freeCount := rfl

/-! ### `releaseReset` (R156) -/

@[simp] theorem releaseReset_psel (s : State) : (releaseReset s).psel = s.psel := rfl
@[simp] theorem releaseReset_vx (s : State) : (releaseReset s).vx = s.vx := rfl
@[simp] theorem releaseReset_vy (s : State) : (releaseReset s).vy = s.vy := rfl
@[simp] theorem releaseReset_vcmd (s : State) : (releaseReset s).vcmd = s.vcmd := rfl
@[simp] theorem releaseReset_vdata (s : State) : (releaseReset s).vdata = s.vdata := rfl
@[simp] theorem releaseReset_vprev (s : State) : (releaseReset s).vprev = s.vprev := rfl
@[simp] theorem releaseReset_vtrig (s : State) : (releaseReset s).vtrig = s.vtrig := rfl
@[simp] theorem releaseReset_alatch (s : State) : (releaseReset s).alatch = s.alatch := rfl
@[simp] theorem releaseReset_areset (s : State) : (releaseReset s).areset = .released := rfl
@[simp] theorem releaseReset_airq (s : State) : (releaseReset s).airq = s.airq := rfl
@[simp] theorem releaseReset_astate (s : State) : (releaseReset s).astate = .awaitingAck := rfl
@[simp] theorem releaseReset_windows (s : State) : (releaseReset s).windows = insertTightening ⟨qTight, s.now + wTighten s.setup⟩ s.windows := rfl
@[simp] theorem releaseReset_now (s : State) : (releaseReset s).now = s.now := rfl
@[simp] theorem releaseReset_drift (s : State) : (releaseReset s).drift = s.drift := rfl
@[simp] theorem releaseReset_out (s : State) : (releaseReset s).out = s.out ++ [.timerReset] ++ [.tighten qTight] := rfl
@[simp] theorem releaseReset_pins (s : State) : (releaseReset s).pins = s.pins := rfl
@[simp] theorem releaseReset_setup (s : State) : (releaseReset s).setup = s.setup := rfl
@[simp] theorem releaseReset_inbox (s : State) : (releaseReset s).inbox = s.inbox := rfl
@[simp] theorem releaseReset_held (s : State) : (releaseReset s).held = s.held := rfl
@[simp] theorem releaseReset_result (s : State) : (releaseReset s).result = s.result := rfl
@[simp] theorem releaseReset_freeCount (s : State) : (releaseReset s).freeCount = s.freeCount := rfl

/-! ### `observeLatch` (R158) -/

@[simp] theorem observeLatch_psel (s : State) : (observeLatch s).psel = s.psel := rfl
@[simp] theorem observeLatch_vx (s : State) : (observeLatch s).vx = s.vx := rfl
@[simp] theorem observeLatch_vy (s : State) : (observeLatch s).vy = s.vy := rfl
@[simp] theorem observeLatch_vcmd (s : State) : (observeLatch s).vcmd = s.vcmd := rfl
@[simp] theorem observeLatch_vdata (s : State) : (observeLatch s).vdata = s.vdata := rfl
@[simp] theorem observeLatch_vprev (s : State) : (observeLatch s).vprev = s.vprev := rfl
@[simp] theorem observeLatch_vtrig (s : State) : (observeLatch s).vtrig = s.vtrig := rfl
@[simp] theorem observeLatch_alatch (s : State) : (observeLatch s).alatch = s.alatch := rfl
@[simp] theorem observeLatch_areset (s : State) : (observeLatch s).areset = s.areset := rfl
@[simp] theorem observeLatch_airq (s : State) : (observeLatch s).airq = s.airq := rfl
@[simp] theorem observeLatch_astate (s : State) : (observeLatch s).astate = if s.astate = .awaitingAck then .idle else s.astate := rfl
@[simp] theorem observeLatch_windows (s : State) : (observeLatch s).windows = s.windows := rfl
@[simp] theorem observeLatch_now (s : State) : (observeLatch s).now = s.now := rfl
@[simp] theorem observeLatch_drift (s : State) : (observeLatch s).drift = s.drift := rfl
@[simp] theorem observeLatch_out (s : State) : (observeLatch s).out = s.out := rfl
@[simp] theorem observeLatch_pins (s : State) : (observeLatch s).pins = s.pins := rfl
@[simp] theorem observeLatch_setup (s : State) : (observeLatch s).setup = s.setup := rfl
@[simp] theorem observeLatch_inbox (s : State) : (observeLatch s).inbox = s.inbox := rfl
@[simp] theorem observeLatch_held (s : State) : (observeLatch s).held = s.held := rfl
@[simp] theorem observeLatch_result (s : State) : (observeLatch s).result = s.result := rfl
@[simp] theorem observeLatch_freeCount (s : State) : (observeLatch s).freeCount = s.freeCount := rfl

/-! ### `sessionReset` (R200) -/

@[simp] theorem sessionReset_psel (s : State) : (sessionReset s).psel = 0 := rfl
@[simp] theorem sessionReset_vx (s : State) : (sessionReset s).vx = s.setup.resetVx := rfl
@[simp] theorem sessionReset_vy (s : State) : (sessionReset s).vy = s.setup.resetVy := rfl
@[simp] theorem sessionReset_vcmd (s : State) : (sessionReset s).vcmd = s.setup.resetVcmd := rfl
@[simp] theorem sessionReset_vdata (s : State) : (sessionReset s).vdata = s.setup.resetVdata := rfl
@[simp] theorem sessionReset_vprev (s : State) : (sessionReset s).vprev = s.setup.resetVprev := rfl
@[simp] theorem sessionReset_vtrig (s : State) : (sessionReset s).vtrig = s.setup.resetVtrig := rfl
@[simp] theorem sessionReset_alatch (s : State) : (sessionReset s).alatch = s.setup.resetAlatch := rfl
@[simp] theorem sessionReset_areset (s : State) : (sessionReset s).areset = .asserted := rfl
@[simp] theorem sessionReset_airq (s : State) : (sessionReset s).airq = false := rfl
@[simp] theorem sessionReset_astate (s : State) : (sessionReset s).astate = .audioHalted := rfl
@[simp] theorem sessionReset_windows (s : State) : (sessionReset s).windows = [] := rfl
@[simp] theorem sessionReset_now (s : State) : (sessionReset s).now = s.now := rfl
@[simp] theorem sessionReset_drift (s : State) : (sessionReset s).drift = false := rfl
@[simp] theorem sessionReset_out (s : State) : (sessionReset s).out = s.out ++ [.sessionReset] := rfl
@[simp] theorem sessionReset_pins (s : State) : (sessionReset s).pins = s.pins := rfl
@[simp] theorem sessionReset_setup (s : State) : (sessionReset s).setup = s.setup := rfl
@[simp] theorem sessionReset_inbox (s : State) : (sessionReset s).inbox = s.inbox := rfl
@[simp] theorem sessionReset_held (s : State) : (sessionReset s).held = s.held := rfl
@[simp] theorem sessionReset_result (s : State) : (sessionReset s).result = s.result := rfl
@[simp] theorem sessionReset_freeCount (s : State) : (sessionReset s).freeCount = s.freeCount := rfl

end Sys2Proof.Machine
end

