-- ==== Sys2Proof/Laws/Ops.lean ====
section
/-! SUPPORT. One lemma per shared operation that says once what it does, and the inversion lemmas of fetch and step. -/

namespace Sys2Proof.Machine

/-! ### How operations end -/

@[simp] theorem complete_eq (s : State) : complete s = .next { s with result := .none } := rfl
@[simp] theorem returns_eq (v : OpResult) (s : State) : returns v s = .next { s with result := v } := rfl
@[simp] theorem ignore_eq (s : State) : ignore s = .next { s with result := .none } := rfl
@[simp] theorem hold_eq (i : Instr) (s : State) : hold i s = .next { s with held := s.held ++ [i] } := rfl

/-! ### Edges and levels -/

theorem edge_eq_rising {p n : Level} : edge p n = .rising ↔ p = false ∧ n = true := by
  cases p <;> cases n <;> simp [edge]

theorem edge_eq_falling {p n : Level} : edge p n = .falling ↔ p = true ∧ n = false := by
  cases p <;> cases n <;> simp [edge]

/-- An active edge is a change of the line to the level that `VTRIG_EDGE` names (R133). -/
theorem isActiveEdge_iff (s : State) (level : Level) :
    isActiveEdge s level = true ↔ s.vtrig ≠ level ∧ (level = true ↔ s.setup.vtrigEdge = .rising) := by
  cases hv : s.vtrig <;> cases level <;> cases hp : s.setup.vtrigEdge <;> simp [isActiveEdge, activeEdge, edge, hv, hp]

theorem isActiveEdge_eq_makesActiveEdge (s : State) (level : Level) :
    isActiveEdge s level = makesActiveEdge (.vidTrig level) s := by
  cases hv : s.vtrig <;> cases level <;> cases hp : s.setup.vtrigEdge <;>
    simp [isActiveEdge, activeEdge, edge, makesActiveEdge, activeLevel, hv, hp]

/-! ### `ENGINE_XY` (R134) -/

@[simp] theorem engineArg_const (b c d x y : Byte) : engineArg (.const b) c d x y = b := rfl
@[simp] theorem engineXY_identity (c d x y : Byte) : engineXY .identity c d x y = (x, y) := rfl

/-- Comparing an argument with every byte of a list, one tree can be given for each of them. -/
theorem EngineXY.by_cases_on (a : EngineArg) (g : Byte → EngineXY) (bs : List Byte) :
    ∃ e, ∀ c d x y, engineArg a c d x y ∈ bs → engineXY e c d x y = engineXY (g (engineArg a c d x y)) c d x y := by
  induction bs with
  | nil => exact ⟨.identity, fun _ _ _ _ h => absurd h List.not_mem_nil⟩
  | cons b bs ih =>
    obtain ⟨e, he⟩ := ih
    refine ⟨.ifEq a (.const b) (g b) e, fun c d x y h => ?_⟩
    by_cases hb : engineArg a c d x y = b
    · rw [engineXY, engineArg_const, if_pos hb, hb]
    · rw [engineXY, engineArg_const, if_neg hb]
      exact he c d x y ((List.mem_cons.mp h).resolve_left hb)

theorem EngineXY.select (a : EngineArg) (g : Byte → EngineXY) :
    ∃ e, ∀ c d x y, engineXY e c d x y = engineXY (g (engineArg a c d x y)) c d x y := by
  obtain ⟨e, he⟩ := EngineXY.by_cases_on a g ((List.range 256).map (BitVec.ofNat 8))
  refine ⟨e, fun c d x y => he c d x y (List.mem_map.mpr ⟨(engineArg a c d x y).toNat, ?_, by simp⟩)⟩
  exact List.mem_range.mpr (engineArg a c d x y).isLt

/-- Every total function of (cmd, data, x, y) is an `ENGINE_XY` that a session can be set up with (R7). -/
theorem EngineXY.every_function (f : Byte → Byte → Byte → Byte → Byte × Byte) :
    ∃ e, ∀ c d x y, engineXY e c d x y = f c d x y := by
  choose e4 h4 using fun c d x => EngineXY.select .y fun y => .give (.const (f c d x y).1) (.const (f c d x y).2)
  choose e3 h3 using fun c d => EngineXY.select .x (e4 c d)
  choose e2 h2 using fun c => EngineXY.select .data (e3 c)
  obtain ⟨e, he⟩ := EngineXY.select .cmd e2
  refine ⟨e, fun c d x y => ?_⟩
  rw [he, h2, h3, h4]
  rfl

/-! ### Operands -/

@[simp] theorem indexOf_val (k : Index) : indexOf k.val = some k := by simp [indexOf]

theorem indexOf_eq_some {n : Nat} {k : Index} : indexOf n = some k ↔ k.val = n := by
  unfold indexOf
  split
  · simp only [Option.some.injEq, Fin.ext_iff]
    exact eq_comm
  · rename_i h
    simp only [reduceCtorEq, false_iff]
    exact fun e => h (e ▸ k.isLt)

theorem indexOf_eq_none {n : Nat} : indexOf n = none ↔ 5 < n := by
  unfold indexOf
  split <;> simp <;> omega

theorem selectIndex_selectCode (k : Index) : selectIndex (selectCode k) = some k := by
  revert k; decide

theorem selectIndex_eq_none {c : Byte} (h : ∀ k, c ≠ selectCode k) : selectIndex c = none := by
  have h0 := h 0; have h1 := h 1; have h2 := h 2; have h3 := h 3; have h4 := h 4; have h5 := h 5
  simp only [selectCode] at h0 h1 h2 h3 h4 h5
  simp [selectIndex, h0, h1, h2, h3, h4, h5]

/-! ### Windows -/

theorem tighteningLe_iff {a b : Tightening} :
    tighteningLe a b = true ↔ a.expiry < b.expiry ∨ (a.expiry = b.expiry ∧ a.gran ≤ b.gran) := by
  simp [tighteningLe]

theorem tighteningLe_trans {a b c : Tightening} (h : tighteningLe a b = true) (h' : tighteningLe b c = true) :
    tighteningLe a c = true := by
  rw [tighteningLe_iff] at *; omega

theorem tighteningLe_of_not {a b : Tightening} (h : ¬tighteningLe a b = true) : tighteningLe b a = true := by
  rw [tighteningLe_iff] at *; omega

theorem tighteningLe_antisymm {a b : Tightening} (h : tighteningLe a b = true) (h' : tighteningLe b a = true) : a = b := by
  rw [tighteningLe_iff] at *
  cases a; cases b; simp at *; omega

/-- Inserting adds exactly one member to the multiset (R40). -/
theorem insertTightening_perm (w : Tightening) (ws : List Tightening) : (insertTightening w ws).Perm (w :: ws) := by
  induction ws with
  | nil => exact List.Perm.refl _
  | cons v vs ih =>
    unfold insertTightening
    split
    · exact List.Perm.refl _
    · exact (ih.cons v).trans (List.Perm.swap w v vs)

theorem mem_insertTightening {a w : Tightening} {ws : List Tightening} : a ∈ insertTightening w ws ↔ a = w ∨ a ∈ ws := by
  rw [(insertTightening_perm w ws).mem_iff, List.mem_cons]

/-- Inserting keeps the list in order (log 8). -/
theorem insertTightening_ordered {w : Tightening} {ws : List Tightening}
    (h : ws.Pairwise fun a b => tighteningLe a b = true) :
    (insertTightening w ws).Pairwise fun a b => tighteningLe a b = true := by
  induction ws with
  | nil => simp [insertTightening]
  | cons v vs ih =>
    obtain ⟨hv, hvs⟩ := List.pairwise_cons.mp h
    unfold insertTightening
    split
    · rename_i hle
      refine List.pairwise_cons.mpr ⟨?_, h⟩
      intro b hb
      rcases List.mem_cons.mp hb with rfl | hb
      · exact hle
      · exact tighteningLe_trans hle (hv b hb)
    · rename_i hle
      refine List.pairwise_cons.mpr ⟨?_, ih hvs⟩
      intro b hb
      rcases mem_insertTightening.mp hb with rfl | hb
      · exact tighteningLe_of_not hle
      · exact hv b hb

/-- Two requests give the same list in either order. -/
theorem insertTightening_comm (a b : Tightening) (ws : List Tightening) :
    insertTightening a (insertTightening b ws) = insertTightening b (insertTightening a ws) := by
  induction ws with
  | nil =>
    by_cases hab : tighteningLe a b = true <;> by_cases hba : tighteningLe b a = true
    · have := tighteningLe_antisymm hab hba; subst this; rfl
    · simp [insertTightening, hab, hba]
    · simp [insertTightening, hab, hba]
    · exact absurd (tighteningLe_of_not hab) hba
  | cons v vs ih =>
    by_cases hav : tighteningLe a v = true <;> by_cases hbv : tighteningLe b v = true <;>
      by_cases hab : tighteningLe a b = true <;> by_cases hba : tighteningLe b a = true <;>
      simp only [insertTightening, hav, hbv, hab, hba, if_true, if_false, ih, Bool.false_eq_true] <;>
      first
        | rfl
        | (have := tighteningLe_antisymm hab hba; subst this; rfl)
        | exact absurd (tighteningLe_of_not hab) hba
        | exact absurd (tighteningLe_trans hab hbv) hav
        | exact absurd (tighteningLe_trans hba hav) hbv

theorem leastGran_le_default (d : Nat) (ws : List Tightening) : leastGran d ws ≤ d := by
  induction ws with
  | nil => exact Nat.le_refl d
  | cons w ws ih => exact Nat.le_trans (Nat.min_le_right _ _) ih

theorem leastGran_le_of_mem {d : Nat} {w : Tightening} {ws : List Tightening} (h : w ∈ ws) : leastGran d ws ≤ w.gran := by
  induction ws with
  | nil => simp at h
  | cons v vs ih =>
    rcases List.mem_cons.mp h with rfl | h
    · exact Nat.min_le_left _ _
    · exact Nat.le_trans (Nat.min_le_right _ _) (ih h)

theorem leastGran_eq (d : Nat) (ws : List Tightening) : leastGran d ws = d ∨ ∃ w ∈ ws, leastGran d ws = w.gran := by
  induction ws with
  | nil => exact .inl rfl
  | cons v vs ih =>
    rcases Nat.le_total v.gran (leastGran d vs) with h | h
    · exact .inr ⟨v, List.mem_cons_self, Nat.min_eq_left h⟩
    · rcases ih with e | ⟨w, hw, e⟩
      · exact .inl (by rw [leastGran, Nat.min_eq_right h, e])
      · exact .inr ⟨w, List.mem_cons_of_mem v hw, by rw [leastGran, Nat.min_eq_right h, e]⟩

/-- The granularity in force depends on the members of the list, not on their number or order. -/
theorem leastGran_congr {d : Nat} {ws vs : List Tightening} (h : ∀ w, w ∈ ws ↔ w ∈ vs) : leastGran d ws = leastGran d vs := by
  apply Nat.le_antisymm
  · rcases leastGran_eq d vs with e | ⟨w, hw, e⟩
    · rw [e]; exact leastGran_le_default d ws
    · rw [e]; exact leastGran_le_of_mem ((h w).mpr hw)
  · rcases leastGran_eq d ws with e | ⟨w, hw, e⟩
    · rw [e]; exact leastGran_le_default d vs
    · rw [e]; exact leastGran_le_of_mem ((h w).mp hw)

/-- `Q_DEFAULT` is at least `Q_TIGHT` and so positive (R7). -/
theorem qDefault_pos (p : Setup) : 0 < qDefault p := by simp [qDefault, qTight]

theorem wTighten_pos (p : Setup) : 0 < wTighten p := by simp [wTighten]

/-! ### Fetch and step -/

theorem fetch_nil {s : State} (hp : s.setup.periodicResetEnable = false) (hi : s.inbox = []) : fetch s = .idle := by
  unfold fetch
  rw [if_neg (by simp [hp]), hi]

theorem fetch_resume {s : State} {rest : List Input} (hp : s.setup.periodicResetEnable = false) (hi : s.inbox = .resume :: rest) :
    fetch s = fetchHeld { s with inbox := rest } := by
  unfold fetch
  rw [if_neg (by simp [hp]), hi]

/-- Any other input stands for an operation, for none, or for a refusal. -/
theorem fetch_input {s : State} {inp : Input} {rest : List Input} (hp : s.setup.periodicResetEnable = false)
    (hi : s.inbox = inp :: rest) (hn : inp ≠ .resume) :
    fetch s = match inputOperation s.setup inp with
      | .error r => .refused r
      | .ok none => .noOperation { s with inbox := rest, result := .none }
      | .ok (some i) => fetchOperation i { s with inbox := rest } := by
  unfold fetch
  rw [if_neg (by simp [hp]), hi]
  cases inp <;> first | rfl | exact absurd rfl hn

theorem fetchHeld_released {s : State} {i : Instr} {hs : List Instr} (ha : s.areset = .released) (hh : s.held = i :: hs) :
    fetchHeld s = .operation i { s with held := hs } := by
  unfold fetchHeld
  simp only [ha, hh]

theorem fetchHeld_none {s : State} (h : s.areset = .asserted ∨ s.held = []) : fetchHeld s = .noOperation s := by
  unfold fetchHeld
  rcases h with h | h
  · simp only [h]
  · rw [h]; cases s.areset <;> rfl

/-- Unless it is the audio element's and that element still holds an earlier one, an operation that arrived is performed. -/
theorem fetchOperation_eq {i : Instr} {s : State} (h : i.issuer ≠ .audio ∨ s.areset = .asserted ∨ s.held = []) :
    fetchOperation i s = .operation i s := by
  unfold fetchOperation
  apply if_neg
  rintro ⟨h1, h2, h3⟩
  rcases h with h | h | h
  · exact h h1
  · rw [h] at h2; exact absurd h2 (by decide)
  · exact h3 h

/-- Every state that fetching hands on is the state it started from, less the input that was taken, and with the held operations
shorter by the one performed or longer by an audio operation that waits. -/
theorem fetch_cases (s : State) :
    fetch s = .idle ∨ (∃ r, fetch s = .refused r) ∨
    (∃ rest, fetch s = .noOperation { s with inbox := rest }) ∨
    (∃ rest, fetch s = .noOperation { s with inbox := rest, result := .none }) ∨
    (∃ i rest, i.issuer = .audio ∧ fetch s = .noOperation { s with inbox := rest, held := s.held ++ [i] }) ∨
    (∃ i rest hs, s.held = i :: hs ∧ fetch s = .operation i { s with inbox := rest, held := hs }) ∨
    (∃ i rest, fetch s = .operation i { s with inbox := rest }) := by
  by_cases hp : s.setup.periodicResetEnable = true
  · exact .inr (.inl ⟨_, by unfold fetch; rw [if_pos hp]⟩)
  · have hp' : s.setup.periodicResetEnable = false := by simpa using hp
    cases hi : s.inbox with
    | nil => exact .inl (fetch_nil hp' hi)
    | cons inp rest =>
      by_cases hr : inp = .resume
      · subst hr
        rw [fetch_resume hp' hi]
        by_cases hh : s.areset = .asserted ∨ s.held = []
        · exact .inr (.inr (.inl ⟨rest, fetchHeld_none hh⟩))
        · rw [not_or] at hh
          have ha : s.areset = .released := by
            cases h : s.areset
            · exact absurd h hh.1
            · rfl
          obtain ⟨i, hs, hl⟩ := List.exists_cons_of_ne_nil hh.2
          exact .inr (.inr (.inr (.inr (.inr (.inl ⟨i, rest, hs, hl, fetchHeld_released ha hl⟩)))))
      · rw [fetch_input hp' hi hr]
        cases inputOperation s.setup inp with
        | error r => exact .inr (.inl ⟨r, rfl⟩)
        | ok o =>
          cases o with
          | none => exact .inr (.inr (.inr (.inl ⟨rest, rfl⟩)))
          | some i =>
            simp only [fetchOperation]
            split
            · rename_i h
              exact .inr (.inr (.inr (.inr (.inl ⟨i, rest, h.1, rfl⟩))))
            · exact .inr (.inr (.inr (.inr (.inr (.inr ⟨i, rest, rfl⟩)))))

/-- What a step that answers a next state can have done: waited, taken an input that performs nothing, let an audio operation wait,
or performed an operation that was held or that arrived. -/
theorem step_cases {s t : State} (h : step s = .next t) :
    t = s ∨ (∃ rest, t = { s with inbox := rest }) ∨ (∃ rest, t = { s with inbox := rest, result := .none }) ∨
    (∃ i rest, i.issuer = .audio ∧ t = { s with inbox := rest, held := s.held ++ [i] }) ∨
    (∃ i rest hs, s.held = i :: hs ∧ exec i { s with inbox := rest, held := hs } = .next t) ∨
    (∃ i rest, exec i { s with inbox := rest } = .next t) := by
  unfold step at h
  rcases fetch_cases s with e | ⟨r, e⟩ | ⟨rest, e⟩ | ⟨rest, e⟩ | ⟨i, rest, hi, e⟩ | ⟨i, rest, hs, hh, e⟩ | ⟨i, rest, e⟩ <;> rw [e] at h
  · exact .inl (by simpa using h.symm)
  · simp at h
  · exact .inr (.inl ⟨rest, by simpa using h.symm⟩)
  · exact .inr (.inr (.inl ⟨rest, by simpa using h.symm⟩))
  · exact .inr (.inr (.inr (.inl ⟨i, rest, hi, by simpa using h.symm⟩)))
  · exact .inr (.inr (.inr (.inr (.inl ⟨i, rest, hs, hh, h⟩))))
  · exact .inr (.inr (.inr (.inr (.inr ⟨i, rest, h⟩))))

end Sys2Proof.Machine
end

