-- ==== Sys2Proof/Laws/Exec.lean ====
section
/-! SUPPORT. What each meaning answers, in closed form, and the fields that the branching operations never change. Later proofs
cite these lemmas and do not unfold `exec`. -/

namespace Sys2Proof.Machine

/-! ### Fields that driving a line never changes -/

@[simp] theorem driveTrigger_psel (l : Level) (s : State) : (driveTrigger l s).psel = s.psel := by
  unfold driveTrigger; split <;> rfl
@[simp] theorem driveTrigger_vcmd (l : Level) (s : State) : (driveTrigger l s).vcmd = s.vcmd := by
  unfold driveTrigger; split <;> rfl
@[simp] theorem driveTrigger_vdata (l : Level) (s : State) : (driveTrigger l s).vdata = s.vdata := by
  unfold driveTrigger; split <;> rfl
@[simp] theorem driveTrigger_alatch (l : Level) (s : State) : (driveTrigger l s).alatch = s.alatch := by
  unfold driveTrigger; split <;> rfl
@[simp] theorem driveTrigger_areset (l : Level) (s : State) : (driveTrigger l s).areset = s.areset := by
  unfold driveTrigger; split <;> rfl
@[simp] theorem driveTrigger_airq (l : Level) (s : State) : (driveTrigger l s).airq = s.airq := by
  unfold driveTrigger; split <;> rfl
@[simp] theorem driveTrigger_astate (l : Level) (s : State) : (driveTrigger l s).astate = s.astate := by
  unfold driveTrigger; split <;> rfl
@[simp] theorem driveTrigger_windows (l : Level) (s : State) : (driveTrigger l s).windows = s.windows := by
  unfold driveTrigger; split <;> rfl
@[simp] theorem driveTrigger_now (l : Level) (s : State) : (driveTrigger l s).now = s.now := by
  unfold driveTrigger; split <;> rfl
@[simp] theorem driveTrigger_drift (l : Level) (s : State) : (driveTrigger l s).drift = s.drift := by
  unfold driveTrigger; split <;> rfl
@[simp] theorem driveTrigger_pins (l : Level) (s : State) : (driveTrigger l s).pins = s.pins := by
  unfold driveTrigger; split <;> rfl
@[simp] theorem driveTrigger_setup (l : Level) (s : State) : (driveTrigger l s).setup = s.setup := by
  unfold driveTrigger; split <;> rfl
@[simp] theorem driveTrigger_inbox (l : Level) (s : State) : (driveTrigger l s).inbox = s.inbox := by
  unfold driveTrigger; split <;> rfl
@[simp] theorem driveTrigger_held (l : Level) (s : State) : (driveTrigger l s).held = s.held := by
  unfold driveTrigger; split <;> rfl
@[simp] theorem driveTrigger_result (l : Level) (s : State) : (driveTrigger l s).result = s.result := by
  unfold driveTrigger; split <;> rfl
@[simp] theorem driveTrigger_freeCount (l : Level) (s : State) : (driveTrigger l s).freeCount = s.freeCount := by
  unfold driveTrigger; split <;> rfl

@[simp] theorem driveReset_psel (r : ResetLine) (s : State) : (driveReset r s).psel = s.psel := by
  unfold driveReset; split <;> rfl
@[simp] theorem driveReset_vx (r : ResetLine) (s : State) : (driveReset r s).vx = s.vx := by
  unfold driveReset; split <;> rfl
@[simp] theorem driveReset_vy (r : ResetLine) (s : State) : (driveReset r s).vy = s.vy := by
  unfold driveReset; split <;> rfl
@[simp] theorem driveReset_vcmd (r : ResetLine) (s : State) : (driveReset r s).vcmd = s.vcmd := by
  unfold driveReset; split <;> rfl
@[simp] theorem driveReset_vdata (r : ResetLine) (s : State) : (driveReset r s).vdata = s.vdata := by
  unfold driveReset; split <;> rfl
@[simp] theorem driveReset_vprev (r : ResetLine) (s : State) : (driveReset r s).vprev = s.vprev := by
  unfold driveReset; split <;> rfl
@[simp] theorem driveReset_vtrig (r : ResetLine) (s : State) : (driveReset r s).vtrig = s.vtrig := by
  unfold driveReset; split <;> rfl
@[simp] theorem driveReset_alatch (r : ResetLine) (s : State) : (driveReset r s).alatch = s.alatch := by
  unfold driveReset; split <;> rfl
@[simp] theorem driveReset_now (r : ResetLine) (s : State) : (driveReset r s).now = s.now := by
  unfold driveReset; split <;> rfl
@[simp] theorem driveReset_drift (r : ResetLine) (s : State) : (driveReset r s).drift = s.drift := by
  unfold driveReset; split <;> rfl
@[simp] theorem driveReset_pins (r : ResetLine) (s : State) : (driveReset r s).pins = s.pins := by
  unfold driveReset; split <;> rfl
@[simp] theorem driveReset_setup (r : ResetLine) (s : State) : (driveReset r s).setup = s.setup := by
  unfold driveReset; split <;> rfl
@[simp] theorem driveReset_inbox (r : ResetLine) (s : State) : (driveReset r s).inbox = s.inbox := by
  unfold driveReset; split <;> rfl
@[simp] theorem driveReset_held (r : ResetLine) (s : State) : (driveReset r s).held = s.held := by
  unfold driveReset; split <;> rfl
@[simp] theorem driveReset_result (r : ResetLine) (s : State) : (driveReset r s).result = s.result := by
  unfold driveReset; split <;> rfl
@[simp] theorem driveReset_freeCount (r : ResetLine) (s : State) : (driveReset r s).freeCount = s.freeCount := by
  unfold driveReset; split <;> rfl

@[simp] theorem driveIrq_psel (l : Level) (s : State) : (driveIrq l s).psel = s.psel := by
  unfold driveIrq; split <;> rfl
@[simp] theorem driveIrq_vx (l : Level) (s : State) : (driveIrq l s).vx = s.vx := by
  unfold driveIrq; split <;> rfl
@[simp] theorem driveIrq_vy (l : Level) (s : State) : (driveIrq l s).vy = s.vy := by
  unfold driveIrq; split <;> rfl
@[simp] theorem driveIrq_vcmd (l : Level) (s : State) : (driveIrq l s).vcmd = s.vcmd := by
  unfold driveIrq; split <;> rfl
@[simp] theorem driveIrq_vdata (l : Level) (s : State) : (driveIrq l s).vdata = s.vdata := by
  unfold driveIrq; split <;> rfl
@[simp] theorem driveIrq_vprev (l : Level) (s : State) : (driveIrq l s).vprev = s.vprev := by
  unfold driveIrq; split <;> rfl
@[simp] theorem driveIrq_vtrig (l : Level) (s : State) : (driveIrq l s).vtrig = s.vtrig := by
  unfold driveIrq; split <;> rfl
@[simp] theorem driveIrq_alatch (l : Level) (s : State) : (driveIrq l s).alatch = s.alatch := by
  unfold driveIrq; split <;> rfl
@[simp] theorem driveIrq_areset (l : Level) (s : State) : (driveIrq l s).areset = s.areset := by
  unfold driveIrq; split <;> rfl
@[simp] theorem driveIrq_astate (l : Level) (s : State) : (driveIrq l s).astate = s.astate := by
  unfold driveIrq; split <;> rfl
@[simp] theorem driveIrq_now (l : Level) (s : State) : (driveIrq l s).now = s.now := by
  unfold driveIrq; split <;> rfl
@[simp] theorem driveIrq_drift (l : Level) (s : State) : (driveIrq l s).drift = s.drift := by
  unfold driveIrq; split <;> rfl
@[simp] theorem driveIrq_pins (l : Level) (s : State) : (driveIrq l s).pins = s.pins := by
  unfold driveIrq; split <;> rfl
@[simp] theorem driveIrq_setup (l : Level) (s : State) : (driveIrq l s).setup = s.setup := by
  unfold driveIrq; split <;> rfl
@[simp] theorem driveIrq_inbox (l : Level) (s : State) : (driveIrq l s).inbox = s.inbox := by
  unfold driveIrq; split <;> rfl
@[simp] theorem driveIrq_held (l : Level) (s : State) : (driveIrq l s).held = s.held := by
  unfold driveIrq; split <;> rfl
@[simp] theorem driveIrq_result (l : Level) (s : State) : (driveIrq l s).result = s.result := by
  unfold driveIrq; split <;> rfl
@[simp] theorem driveIrq_freeCount (l : Level) (s : State) : (driveIrq l s).freeCount = s.freeCount := by
  unfold driveIrq; split <;> rfl

@[simp] theorem driveTrigger_vtrig (l : Level) (s : State) : (driveTrigger l s).vtrig = l := by
  unfold driveTrigger; split <;> rfl
@[simp] theorem driveIrq_airq (l : Level) (s : State) : (driveIrq l s).airq = l := by
  unfold driveIrq; split <;> rfl
@[simp] theorem driveReset_areset (r : ResetLine) (s : State) : (driveReset r s).areset = r := by
  unfold driveReset; split <;> simp [*]

/-! ### What exec answers -/

@[simp] theorem exec_pselSelect (c : Byte) (s : State) :
    exec (.pselSelect c) s = .next { s with psel := (selectIndex c).getD s.psel, result := .none } := by
  show execPselSelect c s = _
  unfold execPselSelect
  cases selectIndex c <;> rfl

@[simp] theorem exec_pselRead (s : State) :
    exec .pselRead s = .next { s with
      result := .byte ((portData s).getD (Config.freePin s.freeCount))
      freeCount := if (portData s).isSome then s.freeCount else s.freeCount + 1 } := by
  show execPselRead s = _
  unfold execPselRead
  cases portData s <;> rfl

@[simp] theorem exec_vidWdata (b : Byte) (s : State) :
    exec (.vidWdata b) s = .next { s with vdata := b, result := .none } := rfl
@[simp] theorem exec_vidWcmd (b : Byte) (s : State) :
    exec (.vidWcmd b) s = .next { s with vcmd := b, result := .none } := rfl
@[simp] theorem exec_vidTrig (l : Level) (s : State) :
    exec (.vidTrig l) s = .next { driveTrigger l s with result := .none } := rfl
@[simp] theorem exec_vidEstate (s : State) : exec .vidEstate s = .next { s with result := .video (engineView s) } := rfl
@[simp] theorem exec_audWcmd (b : Byte) (s : State) :
    exec (.audWcmd b) s = .next { writeLatch (latchWithCommand s.alatch b) s with result := .none } := rfl
@[simp] theorem exec_audWtrig (l : Level) (s : State) :
    exec (.audWtrig l) s = .next { writeLatch (latchWithTrigger s.alatch l) s with result := .none } := rfl
@[simp] theorem exec_audReset (l : Level) (s : State) :
    exec (.audReset l) s = .next { driveReset (resetLineOf s.setup l) s with result := .none } := rfl

theorem exec_audRlatch_held {s : State} (h : s.areset = .asserted) :
    exec .audRlatch s = .next { s with held := s.held ++ [.audRlatch] } := by
  show execAudRlatch s = _
  unfold execAudRlatch
  simp only [h, hold_eq]

theorem exec_audRlatch_released {s : State} (h : s.areset = .released) :
    exec .audRlatch s = .next { observeLatch s with result := .byte s.alatch } := by
  show execAudRlatch s = _
  unfold execAudRlatch
  rw [h]
  rfl

theorem exec_audIrq_held {s : State} (l : Level) (h : s.areset = .asserted) :
    exec (.audIrq l) s = .next { s with held := s.held ++ [.audIrq l] } := by
  show execAudIrq l s = _
  unfold execAudIrq
  simp only [h, hold_eq]

theorem exec_audIrq_released {s : State} (l : Level) (h : s.areset = .released) :
    exec (.audIrq l) s = .next { driveIrq l s with result := .none } := by
  show execAudIrq l s = _
  unfold execAudIrq
  rw [h]
  rfl

theorem exec_synTighten_zero {g : BitVec 48} (s : State) (h : g.toNat = 0) :
    exec (.synTighten g) s = .next { s with result := .none } := if_pos h
theorem exec_synTighten_pos {g : BitVec 48} (s : State) (h : g.toNat ≠ 0) :
    exec (.synTighten g) s = .next { tighten g.toNat s with result := .none } := if_neg h
@[simp] theorem exec_synAdvance (dt : BitVec 48) (s : State) :
    exec (.synAdvance dt) s = .next { advance dt.toNat s with result := .none } := rfl
@[simp] theorem exec_synGran (s : State) : exec .synGran s = .next { s with result := .time (gran s) } := rfl
@[simp] theorem exec_sysReset (s : State) : exec .sysReset s = .next { sessionReset s with result := .none } := rfl
@[simp] theorem exec_sysSave (s : State) : exec .sysSave s = .next { s with result := .image (saveImage s) } := rfl

theorem exec_sysRestore_of_le {i0 : Byte} (i1 i2 i3 i4 i5 : Byte) (s : State) {k : Index} (h : k.val = i0.toNat) :
    exec (.sysRestore i0 i1 i2 i3 i4 i5) s =
      .next { s with psel := k, vx := i1, vy := i2, vcmd := i3, vdata := i4, vprev := i5, result := .none } := by
  show execSysRestore i0 i1 i2 i3 i4 i5 s = _
  unfold execSysRestore
  simp only [indexOf_eq_some.mpr h, complete_eq]

theorem exec_sysRestore_of_gt {i0 : Byte} (i1 i2 i3 i4 i5 : Byte) (s : State) (h : 5 < i0.toNat) :
    exec (.sysRestore i0 i1 i2 i3 i4 i5) s = .refused .indexAbove5 := by
  show execSysRestore i0 i1 i2 i3 i4 i5 s = _
  unfold execSysRestore
  rw [indexOf_eq_none.mpr h]

theorem exec_sysSetin_of_le {k : BitVec 3} (v : Byte) (s : State) {j : Index} (h : j.val = k.toNat) :
    exec (.sysSetin k v) s = .next { s with pins := s.pins.set j (some v), result := .none } := by
  show execSysSetin k v s = _
  unfold execSysSetin
  simp only [indexOf_eq_some.mpr h, complete_eq]

theorem exec_sysSetin_of_gt {k : BitVec 3} (v : Byte) (s : State) (h : 5 < k.toNat) :
    exec (.sysSetin k v) s = .refused .indexAbove5 := by
  show execSysSetin k v s = _
  unfold execSysSetin
  rw [indexOf_eq_none.mpr h]

/-- Everything that an operation with a next state can have done: what holds of each of these states holds of the next one. -/
theorem exec_next_cases {i : Instr} {s t : State} (h : exec i s = .next t) {P : State → Prop}
    (sel : ∀ c, i = .pselSelect c → P { s with psel := (selectIndex c).getD s.psel, result := .none })
    (rd : i = .pselRead → P { s with
      result := .byte ((portData s).getD (Config.freePin s.freeCount))
      freeCount := if (portData s).isSome then s.freeCount else s.freeCount + 1 })
    (wd : ∀ b, i = .vidWdata b → P { s with vdata := b, result := .none })
    (wc : ∀ b, i = .vidWcmd b → P { s with vcmd := b, result := .none })
    (tr : ∀ l, i = .vidTrig l → P { driveTrigger l s with result := .none })
    (es : i = .vidEstate → P { s with result := .video (engineView s) })
    (ac : ∀ b, i = .audWcmd b → P { writeLatch (latchWithCommand s.alatch b) s with result := .none })
    (at' : ∀ l, i = .audWtrig l → P { writeLatch (latchWithTrigger s.alatch l) s with result := .none })
    (ar : ∀ l, i = .audReset l → P { driveReset (resetLineOf s.setup l) s with result := .none })
    (hl : s.areset = .asserted → (i = .audRlatch ∨ ∃ l, i = .audIrq l) → P { s with held := s.held ++ [i] })
    (rl : s.areset = .released → i = .audRlatch → P { observeLatch s with result := .byte s.alatch })
    (irq : s.areset = .released → ∀ l, i = .audIrq l → P { driveIrq l s with result := .none })
    (t0 : i = .synTighten 0 → P { s with result := .none })
    (t1 : ∀ g, i = .synTighten g → g.toNat ≠ 0 → P { tighten g.toNat s with result := .none })
    (ad : ∀ dt, i = .synAdvance dt → P { advance dt.toNat s with result := .none })
    (gr : i = .synGran → P { s with result := .time (gran s) })
    (rs : i = .sysReset → P { sessionReset s with result := .none })
    (sv : i = .sysSave → P { s with result := .image (saveImage s) })
    (re : ∀ i0 i1 i2 i3 i4 i5 (k : Index), i = .sysRestore i0 i1 i2 i3 i4 i5 → k.val = i0.toNat →
      P { s with psel := k, vx := i1, vy := i2, vcmd := i3, vdata := i4, vprev := i5, result := .none })
    (si : ∀ k v (j : Index), i = .sysSetin k v → j.val = k.toNat →
      P { s with pins := s.pins.set j (some v), result := .none }) :
    P t := by
  cases i
  case audRlatch =>
    cases ha : s.areset
    · rw [exec_audRlatch_held ha] at h; injection h with h; subst h; exact hl ha (.inl rfl)
    · rw [exec_audRlatch_released ha] at h; injection h with h; subst h; exact rl ha rfl
  case audIrq l =>
    cases ha : s.areset
    · rw [exec_audIrq_held l ha] at h; injection h with h; subst h; exact hl ha (.inr ⟨l, rfl⟩)
    · rw [exec_audIrq_released l ha] at h; injection h with h; subst h; exact irq ha l rfl
  case synTighten g =>
    by_cases hg : g.toNat = 0
    · rw [exec_synTighten_zero s hg] at h; injection h with h; subst h; apply t0; congr; exact BitVec.eq_of_toNat_eq hg
    · rw [exec_synTighten_pos s hg] at h; injection h with h; subst h; exact t1 g rfl hg
  case sysRestore i0 i1 i2 i3 i4 i5 =>
    by_cases hg : 5 < i0.toNat
    · rw [exec_sysRestore_of_gt _ _ _ _ _ _ hg] at h; simp at h
    · have hk : (⟨i0.toNat, by omega⟩ : Index).val = i0.toNat := rfl
      rw [exec_sysRestore_of_le _ _ _ _ _ _ hk] at h; injection h with h; subst h; exact re _ _ _ _ _ _ _ rfl hk
  case sysSetin k v =>
    by_cases hg : 5 < k.toNat
    · rw [exec_sysSetin_of_gt _ _ hg] at h; simp at h
    · have hk : (⟨k.toNat, by omega⟩ : Index).val = k.toNat := rfl
      rw [exec_sysSetin_of_le _ _ hk] at h; injection h with h; subst h; exact si _ _ _ rfl hk
  case pselSelect c => rw [exec_pselSelect] at h; injection h with h; subst h; exact sel c rfl
  case pselRead => rw [exec_pselRead] at h; injection h with h; subst h; exact rd rfl
  all_goals (injection h with h; subst h)
  case vidWdata => exact wd _ rfl
  case vidWcmd => exact wc _ rfl
  case vidTrig => exact tr _ rfl
  case vidEstate => exact es rfl
  case audWcmd => exact ac _ rfl
  case audWtrig => exact at' _ rfl
  case audReset => exact ar _ rfl
  case synAdvance => exact ad _ rfl
  case synGran => exact gr rfl
  case sysReset => exact rs rfl
  case sysSave => exact sv rfl

end Sys2Proof.Machine
end

