-- ==== Sys2Proof/Laws/PerInstr.lean ====
section
/-! SUPPORT. Statements for every operation, made operation by operation: the encoding of each meets the pattern and mask of its own
row of R93. -/

namespace Sys2Proof

/-- A word assembled from an operand that meets the operand part of a mask meets the whole mask. -/
theorem assembleWord_and (u f u' f' : BitVec 4) (o o' : Operand) (r : Byte) :
    assembleWord u f o &&& (u' ++ f' ++ r ++ o') = assembleWord (u &&& u') (f &&& f') (o &&& o') := by
  apply BitVec.eq_of_getLsbD_eq
  intro i hi
  have hl := layout_getLsbD u' f' r o' i
  rw [BitVec.getLsbD_and, assembleWord_getLsbD, assembleWord_getLsbD]
  refine (congrArg (_ && ·) hl).trans ?_
  split <;> [skip; split <;> [skip; split]] <;> simp [*]

namespace Laws.RowMatch

/-- The encoding of an operation meets pattern and mask of its row (R93, R102). -/
def Statement (i : Instr) : Prop := encode i &&& i.row.mask = i.row.pattern

theorem classB_and (b : Byte) : (0#40 ++ b) &&& (0xFFFFFFFFFF#40 ++ 0#8) = (0#48 : Operand) := by
  revert b; decide

theorem classL_and (l : Level) : (0#47 ++ levelBits 1 l) &&& (0x7FFFFFFFFFFF#47 ++ 0#1) = (0#48 : Operand) := by
  cases l <;> decide

theorem classK_and (k : BitVec 3) (v : Byte) : (0#37 ++ k ++ v) &&& 0xFFFFFFFFF800#48 = (0#48 : Operand) := by
  revert k v; decide

theorem of_and {i : Instr} {u f : BitVec 4} {o' : Operand}
    (hm : i.row.mask = u ++ f ++ 0xFF#8 ++ o')
    (hp : assembleWord (i.unitFn.1 &&& u) (i.unitFn.2 &&& f) (i.operand &&& o') = i.row.pattern) : Statement i := by
  unfold Statement encode
  rw [hm, assembleWord_and, hp]

theorem pselSelect (code : Byte) : Statement (.pselSelect code) :=
  of_and (u := 0xF#4) (f := 0xF#4) (o' := 0xFFFFFFFFFF#40 ++ 0#8) rfl (by simp only [Instr.operand, Instr.unitFn, Instr.row, classB_and]; decide)
theorem pselRead : Statement .pselRead := by unfold Statement; decide
theorem vidWdata (byte : Byte) : Statement (.vidWdata byte) :=
  of_and (u := 0xF#4) (f := 0xF#4) (o' := 0xFFFFFFFFFF#40 ++ 0#8) rfl (by simp only [Instr.operand, Instr.unitFn, Instr.row, classB_and]; decide)
theorem vidWcmd (byte : Byte) : Statement (.vidWcmd byte) :=
  of_and (u := 0xF#4) (f := 0xF#4) (o' := 0xFFFFFFFFFF#40 ++ 0#8) rfl (by simp only [Instr.operand, Instr.unitFn, Instr.row, classB_and]; decide)
theorem vidTrig (level : Level) : Statement (.vidTrig level) :=
  of_and (u := 0xF#4) (f := 0xF#4) (o' := 0x7FFFFFFFFFFF#47 ++ 0#1) rfl (by simp only [Instr.operand, Instr.unitFn, Instr.row, classL_and]; decide)
theorem vidEstate : Statement .vidEstate := by unfold Statement; decide
theorem audWcmd (byte : Byte) : Statement (.audWcmd byte) :=
  of_and (u := 0xF#4) (f := 0xF#4) (o' := 0xFFFFFFFFFF#40 ++ 0#8) rfl (by simp only [Instr.operand, Instr.unitFn, Instr.row, classB_and]; decide)
theorem audWtrig (level : Level) : Statement (.audWtrig level) :=
  of_and (u := 0xF#4) (f := 0xF#4) (o' := 0x7FFFFFFFFFFF#47 ++ 0#1) rfl (by simp only [Instr.operand, Instr.unitFn, Instr.row, classL_and]; decide)
theorem audReset (level : Level) : Statement (.audReset level) :=
  of_and (u := 0xF#4) (f := 0xF#4) (o' := 0x7FFFFFFFFFFF#47 ++ 0#1) rfl (by simp only [Instr.operand, Instr.unitFn, Instr.row, classL_and]; decide)
theorem audRlatch : Statement .audRlatch := by unfold Statement; decide
theorem audIrq (level : Level) : Statement (.audIrq level) :=
  of_and (u := 0xF#4) (f := 0xF#4) (o' := 0x7FFFFFFFFFFF#47 ++ 0#1) rfl (by simp only [Instr.operand, Instr.unitFn, Instr.row, classL_and]; decide)
theorem synTighten (t : BitVec 48) : Statement (.synTighten t) :=
  of_and (u := 0xF#4) (f := 0xF#4) (o' := 0#48) rfl (by simp only [Instr.operand, Instr.unitFn, Instr.row, BitVec.and_zero]; decide)
theorem synAdvance (dt : BitVec 48) : Statement (.synAdvance dt) :=
  of_and (u := 0xF#4) (f := 0xF#4) (o' := 0#48) rfl (by simp only [Instr.operand, Instr.unitFn, Instr.row, BitVec.and_zero]; decide)
theorem synGran : Statement .synGran := by unfold Statement; decide
theorem sysReset : Statement .sysReset := by unfold Statement; decide
theorem sysSave : Statement .sysSave := by unfold Statement; decide
theorem sysRestore (i0 i1 i2 i3 i4 i5 : Byte) : Statement (.sysRestore i0 i1 i2 i3 i4 i5) :=
  of_and (u := 0xF#4) (f := 0xF#4) (o' := 0#48) rfl (by simp only [Instr.operand, Instr.unitFn, Instr.row, BitVec.and_zero]; decide)
theorem sysSetin (k : BitVec 3) (v : Byte) : Statement (.sysSetin k v) :=
  of_and (u := 0xF#4) (f := 0xF#4) (o' := 0xFFFFFFFFF800#48) rfl (by simp only [Instr.operand, Instr.unitFn, Instr.row, classK_and]; decide)

end Laws.RowMatch

end Sys2Proof
end

