-- ==== Sys2Proof/Tests/Slice0.lean ====
section
/-! SUPPORT. Tests of single steps and of the encoding, and a witness for the hypotheses of each statement. Every expected value
is written out from 95_test_vectors.md or from the worked examples of the rules; none is the model's own answer. -/

namespace Sys2Proof.Tests

open Sys2Proof.Machine

/-- The parameters of 95_test_vectors.md section 0: `ENGINE_XY` the identity, `W_TIGHTEN` 50000 and `Q_DEFAULT` 1000000. -/
def setup0 : Setup := { Setup.default with engineXY := .identity, wTightenLess1 := 49999, qDefaultOver := 990000 }

/-- The power-on state `R0` of 95_test_vectors.md section 0. -/
def R0 : State := State.powerOn setup0

/-- `R0` with the audio element running. -/
def running : State := { R0 with areset := .released, astate := .awaitingAck }

/-- The dirty state of vector VY1. -/
def dirty : State :=
  { R0 with
    psel := 4
    vx := 1#8
    vy := 2#8
    vcmd := 3#8
    vdata := 4#8
    vprev := 5#8
    vtrig := true
    alatch := 0xFF#8
    areset := .released
    astate := .idle
    airq := true
    windows := [⟨10000, 90000⟩]
    now := 70000
    drift := true
    pins := R0.pins.set 4 (some 0x5A#8) }

/-- What one sees of the next state, if there is one. -/
def look {α : Type} (f : State → α) : Result → Option α
  | .next t => some (f t)
  | .fault _ => none
  | .refused _ => none

/-- The reason of a refusal, if there is one. -/
def why : Result → Option Refusal
  | .next _ => none
  | .fault _ => none
  | .refused r => some r

/-- What the decoder reads. -/
def read (w : Word) : Option Instr := (decode w).toOption

/-- Why the decoder refuses. -/
def refusal (w : Word) : Option DecodeError :=
  match decode w with
  | .ok _ => none
  | .error e => some e

/-! ### Well-formedness: one ill-formed term for each check (R92, R98) -/

theorem test_restore_selector_6_is_ill_formed : (Instr.sysRestore 6#8 0#8 0#8 0#8 0#8 0#8).wellFormed = false := by decide
theorem test_restore_selector_5_is_well_formed : (Instr.sysRestore 5#8 0#8 0#8 0#8 0#8 0#8).wellFormed = true := by decide
theorem test_setin_index_6_is_ill_formed : (Instr.sysSetin 6#3 0#8).wellFormed = false := by decide
theorem test_setin_index_7_is_ill_formed : (Instr.sysSetin 7#3 0#8).wellFormed = false := by decide
theorem test_setin_index_5_is_well_formed : (Instr.sysSetin 5#3 0#8).wellFormed = true := by decide

/-! ### Words written out from the spec's encodings (95_test_vectors.md section 2.1) -/

theorem test_decode_pselSelect : read 0x0000000000000008#64 = some (.pselSelect 0x08#8) := by decide
theorem test_decode_pselSelect_zero : read 0x0000000000000000#64 = some (.pselSelect 0x00#8) := by decide
theorem test_decode_pselRead : read 0x0100000000000000#64 = some .pselRead := by decide
theorem test_decode_vidWdata : read 0x1000000000000042#64 = some (.vidWdata 0x42#8) := by decide
theorem test_decode_vidWcmd : read 0x1100000000000007#64 = some (.vidWcmd 0x07#8) := by decide
theorem test_decode_vidTrig_0 : read 0x1200000000000000#64 = some (.vidTrig false) := by decide
theorem test_decode_vidTrig_1 : read 0x1200000000000001#64 = some (.vidTrig true) := by decide
theorem test_decode_vidEstate : read 0x1300000000000000#64 = some .vidEstate := by decide
theorem test_decode_audWcmd : read 0x20000000000000D5#64 = some (.audWcmd 0xD5#8) := by decide
theorem test_decode_audWtrig : read 0x2100000000000001#64 = some (.audWtrig true) := by decide
theorem test_decode_audReset : read 0x2200000000000001#64 = some (.audReset true) := by decide
theorem test_decode_audRlatch : read 0x2300000000000000#64 = some .audRlatch := by decide
theorem test_decode_audIrq : read 0x2400000000000000#64 = some (.audIrq false) := by decide
theorem test_decode_synTighten : read 0x3000000000002710#64 = some (.synTighten 10000#48) := by decide
theorem test_decode_synAdvance : read 0x31000000000F4240#64 = some (.synAdvance 1000000#48) := by decide
theorem test_decode_synGran : read 0x3200000000000000#64 = some .synGran := by decide
theorem test_decode_sysReset : read 0x4000000000000000#64 = some .sysReset := by decide
theorem test_decode_sysSave : read 0x4100000000000000#64 = some .sysSave := by decide
theorem test_decode_sysRestore : read 0x4200050000039902#64 = some (.sysRestore 5#8 0#8 0#8 3#8 0x99#8 2#8) := by decide
theorem test_decode_sysSetin : read 0x43000000000003A5#64 = some (.sysSetin 3#3 0xA5#8) := by decide

theorem test_refuse_unit_5 : refusal 0x5000000000000000#64 = some .unassignedUnit := by decide
theorem test_refuse_psel_fn_2 : refusal 0x0200000000000000#64 = some .unassignedFunction := by decide
theorem test_refuse_vid_fn_4 : refusal 0x1400000000000000#64 = some .unassignedFunction := by decide
theorem test_refuse_aud_fn_5 : refusal 0x2500000000000000#64 = some .unassignedFunction := by decide
theorem test_refuse_syn_fn_3 : refusal 0x3300000000000000#64 = some .unassignedFunction := by decide
theorem test_refuse_sys_fn_4 : refusal 0x4400000000000000#64 = some .unassignedFunction := by decide
theorem test_refuse_reserved : refusal 0x0001000000000008#64 = some .reservedNotZero := by decide
theorem test_refuse_class_B_bit_8 : refusal 0x0000000000000108#64 = some .operandBitsNotZero := by decide
theorem test_refuse_class_L_bit_1 : refusal 0x1200000000000002#64 = some .operandBitsNotZero := by decide
theorem test_refuse_class_N_operand : refusal 0x0100000000000001#64 = some .operandBitsNotZero := by decide
theorem test_refuse_restore_selector_6 : refusal 0x4200061020074207#64 = some .restoreSelectorAbove5 := by decide
theorem test_refuse_setin_index_6 : refusal 0x43000000000006A5#64 = some .inputIndexAbove5 := by decide
theorem test_refuse_class_K_bit_11 : refusal 0x4300000000000BA5#64 = some .operandBitsNotZero := by decide

theorem test_encode_restore : encode (.sysRestore 5#8 0#8 0#8 3#8 0x99#8 2#8) = 0x4200050000039902#64 := by decide
theorem test_encode_setin : encode (.sysSetin 5#3 0x3C#8) = 0x430000000000053C#64 := by decide

/-- Bits 63:56 are the first byte (R90), and the rest of the bytes comes back. -/
theorem test_decode_bytes : (decodeBytes [0x43#8, 0#8, 0#8, 0#8, 0#8, 0#8, 0x03#8, 0xA5#8, 0x77#8]).toOption =
    some (.sysSetin 3#3 0xA5#8, [0x77#8]) := by decide

/-- The opcode table's numbering: a word given in one byte has its other bits zero. -/
theorem test_decode_table_word : decodeTableWord 8 0x08 = some (.pselSelect 0x08#8) := by decide

/-! ### Port Selector (section 2.2, S1) -/

/-- VP3: 0x80 is index 4. -/
theorem test_select_80 : look State.psel (exec (.pselSelect 0x80#8) R0) = some 4 := by decide
/-- VP2: the comparison is on the whole byte. -/
theorem test_select_unmapped : look State.psel (exec (.pselSelect 0xC0#8) { R0 with psel := 2 }) = some 2 := by decide
/-- VP1: no select is needed after reset. -/
theorem test_read_after_reset :
    look State.result (exec .pselRead { R0 with pins := R0.pins.set 0 (some 0x11#8) }) = some (.byte 0x11#8) := by decide
/-- R121: with `IN[3]` = 0xA5 and `PSEL` = 3 the read returns 0xA5. -/
theorem test_read_selected :
    look State.result (exec .pselRead { R0 with psel := 3, pins := R0.pins.set 3 (some 0xA5#8) }) = some (.byte 0xA5#8) := by decide

/-! ### Drawing-Engine Command Channel (section 2.3) -/

/-- R130. -/
theorem test_wdata : look State.vdata (exec (.vidWdata 0x42#8) R0) = some 0x42#8 := by decide
/-- R131, and VPREV is not written. -/
theorem test_wcmd : look (fun t => (t.vcmd, t.vprev)) (exec (.vidWcmd 0x07#8) R0) = some (0x07#8, 0x00#8) := by decide
/-- VV3: the delivery of a repeated command carries the old previous value. -/
theorem test_trig_delivers :
    look (fun t => (t.out, t.vprev, t.vtrig)) (exec (.vidTrig true) { R0 with vcmd := 0x07#8, vdata := 0x42#8 }) =
      some ([.sessionReset, .draw 0x07#8 0x42#8 0x00#8], 0x07#8, true) := by decide
/-- VV6: with `Falling`, a rise delivers nothing. -/
theorem test_trig_inactive_edge :
    look (fun t => (t.out, t.vtrig)) (exec (.vidTrig true) { R0 with setup := { setup0 with vtrigEdge := .falling } }) =
      some ([.sessionReset], true) := by decide
/-- VV7 after VV3. -/
theorem test_estate :
    look State.result (exec .vidEstate { R0 with vcmd := 0x07#8, vdata := 0x42#8, vprev := 0x07#8 }) =
      some (.video 0x0000074207#40) := by decide

/-- The function of VV8. -/
def vv8 : EngineXY :=
  .ifEq .cmd (.const 0x01#8) (.give .data .y) (.ifEq .cmd (.const 0x02#8) (.give .x .data) (.give .x .y))
/-- VV8, the second delivery: command 2 takes the data byte into Y. -/
theorem test_engine_function :
    look (fun t => (t.vx, t.vy, t.out))
      (exec (.vidTrig true) { R0 with setup := { setup0 with engineXY := vv8 }, vx := 0x30#8, vcmd := 0x02#8, vdata := 0x40#8, vprev := 0x01#8 }) =
      some (0x30#8, 0x40#8, [.sessionReset, .draw 0x02#8 0x40#8 0x01#8]) := by decide

/-! ### Audio Command Channel (section 2.4, S3, S4) -/

/-- R150: with 0x80 in the latch, AUD.WCMD 0xD5 gives 0xD5. -/
theorem test_wcmd_keeps_bit_7 : look State.alatch (exec (.audWcmd 0xD5#8) { R0 with alatch := 0x80#8 }) = some 0xD5#8 := by decide
/-- VA5: a changing write in Idle. -/
theorem test_wcmd_changes_in_idle :
    look (fun t => (t.alatch, t.astate)) (exec (.audWcmd 0x56#8) { running with alatch := 0xD5#8, astate := .idle }) =
      some (0xD6#8, .awaitingAck) := by decide
/-- R152. -/
theorem test_wtrig_sets_bit_7 : look State.alatch (exec (.audWtrig true) { R0 with alatch := 0x55#8 }) = some 0xD5#8 := by decide
/-- VA5: a write of the same level in Idle changes nothing. -/
theorem test_wtrig_same_level :
    look (fun t => (t.alatch, t.astate)) (exec (.audWtrig true) { running with alatch := 0xD5#8, astate := .idle }) =
      some (0xD5#8, .idle) := by decide
/-- S4 step 1 and the worked example of R156. -/
theorem test_release :
    look (fun t => (t.areset, t.astate, t.out, t.windows)) (exec (.audReset true) R0) =
      some (.released, .awaitingAck, [.sessionReset, .timerReset, .tighten 10000], [⟨10000, 50000⟩]) := by decide
/-- VA7: the assert clears the interrupt and keeps the latch. -/
theorem test_assert :
    look (fun t => (t.areset, t.astate, t.airq, t.alatch, t.out))
      (exec (.audReset false) { running with airq := true, alatch := 0x95#8, astate := .idle }) =
      some (.asserted, .audioHalted, false, 0x95#8, [.sessionReset]) := by decide
/-- VA4. -/
theorem test_rlatch :
    look (fun t => (t.result, t.astate, t.alatch)) (exec .audRlatch { running with alatch := 0xD5#8 }) =
      some (.byte 0xD5#8, .idle, 0xD5#8) := by decide
/-- VA2: not enabled while the line is asserted. -/
theorem test_rlatch_held : look (fun t => (t.held, t.astate)) (exec .audRlatch R0) = some ([.audRlatch], .audioHalted) := by decide
/-- VA6: a rise requests tightening. -/
theorem test_irq_rises :
    look (fun t => (t.airq, t.out)) (exec (.audIrq true) running) = some (true, [.sessionReset, .tighten 10000]) := by decide
/-- VA6: the same level again requests nothing. -/
theorem test_irq_no_edge :
    look (fun t => (t.airq, t.out)) (exec (.audIrq true) { running with airq := true }) = some (true, [.sessionReset]) := by decide

/-! ### Interleave Synchronizer (section 2.5) -/

/-- VS3, the second request. -/
theorem test_tighten :
    look (fun t => (t.windows, t.out)) (exec (.synTighten 20000#48) { R0 with windows := [⟨10000, 50000⟩] }) =
      some ([⟨10000, 50000⟩, ⟨20000, 50000⟩], [.sessionReset, .tighten 20000]) := by decide
/-- VS7. -/
theorem test_tighten_zero : look (fun t => (t.windows, t.out)) (exec (.synTighten 0#48) R0) = some ([], [.sessionReset]) := by decide
/-- VS4, the fifth advance. -/
theorem test_advance_expires :
    look (fun t => (t.now, t.windows, t.drift)) (exec (.synAdvance 10000#48) { R0 with now := 40000, windows := [⟨10000, 50000⟩] }) =
      some (50000, [], false) := by decide
/-- VS6. -/
theorem test_advance_late :
    look (fun t => (t.now, t.windows, t.drift)) (exec (.synAdvance 20000#48) { R0 with windows := [⟨10000, 50000⟩] }) =
      some (20000, [⟨10000, 50000⟩], true) := by decide
/-- VS1. -/
theorem test_gran_default : look State.result (exec .synGran R0) = some (.time 1000000) := by decide
/-- VS3. -/
theorem test_gran_tightest :
    look State.result (exec .synGran { R0 with windows := [⟨10000, 50000⟩, ⟨20000, 50000⟩] }) = some (.time 10000) := by decide

/-! ### Session operations (section 2.6) -/

/-- VY1, the fields of CORE. -/
theorem test_session_reset :
    look (fun t => ((t.psel, t.vx, t.vprev, t.vtrig), (t.alatch, t.areset, t.astate, t.airq))) (exec .sysReset dirty) =
      some ((0, 0#8, 0#8, false), (0#8, .asserted, .audioHalted, false)) := by decide
/-- VY1, the rest. -/
theorem test_session_reset_keeps :
    look (fun t => ((t.windows, t.now, t.drift), (t.out, t.pins[4]))) (exec .sysReset dirty) =
      some (([], 70000, false), ([.sessionReset, .sessionReset], some 0x5A#8)) := by decide
/-- VY2. -/
theorem test_save : look State.result (exec .sysSave dirty) = some (.image 0x040102030405#48) := by decide
/-- VY3. -/
theorem test_restore :
    look (fun t => ((t.psel, t.vx, t.vy), (t.vcmd, t.vdata, t.vprev), t.out)) (exec (.sysRestore 4#8 1#8 2#8 3#8 4#8 5#8) R0) =
      some ((4, 1#8, 2#8), (3#8, 4#8, 5#8), [.sessionReset]) := by decide
/-- R98: the machine refuses what the decoder never gives it. -/
theorem test_restore_refused : why (exec (.sysRestore 6#8 1#8 2#8 3#8 4#8 5#8) R0) = some .indexAbove5 := by decide
/-- VY5. -/
theorem test_setin :
    look (fun t => (t.pins[5], t.pins[4])) (exec (.sysSetin 5#3 0xFF#8) R0) = some (some 0xFF#8, none) := by decide

/-! ### The step -/

/-- P1, row 2, as the first transaction after reset. -/
theorem test_step_runs_the_placed_word : look State.psel (step (State.reset.withFetchWord 64 0x08)) = some 3 := by decide
/-- A read of an undriven group completes (R206 d). -/
theorem test_step_undriven_read : look State.freeCount (step (State.reset.withFetchWord 64 0x0100000000000000)) = some 1 := by decide
/-- P2 with its third row before its second: the held read goes on after the release, when the audio element has its turn. -/
theorem test_step_resumes :
    look (fun t => (t.result, t.astate, t.held))
      (step { running with inbox := [.resume], held := [.audRlatch], alatch := 0x15#8 }) =
      some (.byte 0x15#8, .idle, []) := by decide
/-- R98. -/
theorem test_step_refuses_unit_5 :
    why (step (State.reset.withFetchWord 64 0x5000000000000000)) = some (.notATransaction .unassignedUnit) := by decide
/-- R237. -/
theorem test_step_refuses_periodic_reset :
    why (step (State.powerOn { setup0 with periodicResetEnable := true })) = some .periodicResetEnabled := by decide

/-! ### The bus view (R61, R62): an instance with four registers mirrored four times -/

def window0 : AdapterWindow := ⟨0x1000, 2, 2⟩
def windows0 : Windows := ⟨Vector.replicate 3 window0, Vector.replicate 3 window0⟩
def binding0 : Binding where
  mainWrites := [(⟨0, 0⟩, .pselSelect), (⟨0, 1⟩, .vidWdata), (⟨0, 2⟩, .vidWcmd), (⟨0, 3⟩, .audWcmd)]
  mainReads := [⟨0, 1⟩]
  audioReads := [⟨0, 0⟩]
  lines := [(⟨.main, 0, 0⟩, .vidTrig), (⟨.main, 1, 0⟩, .audWtrig), (⟨.main, 1, 1⟩, .audReset), (⟨.audio, 0, 0⟩, .audIrq)]
def bus0 : State := { R0 with setup := { setup0 with windows := windows0, bindingA := some binding0 } }

/-- Address 0x100D is 13 past the base, and 13 & 3 = 1. -/
theorem test_mirror : windowRegister window0 0x100D = some 1 ∧ windowRegister window0 0x1010 = none := by decide
theorem test_bus_write :
    look State.vdata (step { bus0 with inbox := [.memWrite .main 0x100D 0x42#8] }) = some 0x42#8 := by decide
/-- R62: a driven line needs the binding only, whatever the windows are. -/
theorem test_bus_line :
    look State.areset (step { R0 with setup := { setup0 with bindingA := some binding0 }, inbox := [.line ⟨.main, 1, 1⟩ true] }) =
      some .released := by decide
theorem test_bus_without_binding : why (step { R0 with inbox := [.memRead .main 0x1001] }) = some .bindingNotSupplied := by decide

/-! ### The text syntax (30_encoding.md R103, R104) -/

def lineOf (p : Setup) (text : String) : Option (List Instr) := (readLine p text.toList).toOption

theorem test_text_byte : lineOf setup0 "PSEL.SELECT 0x08" = some [.pselSelect 0x08#8] := by decide
theorem test_text_time : lineOf setup0 "SYN.TIGHTEN 10us" = some [.synTighten 10000#48] := by decide
theorem test_text_image :
    lineOf setup0 "SYS.RESTORE 5, 0, 0, 3, 0x99, 2" = some [.sysRestore 5#8 0#8 0#8 3#8 0x99#8 2#8] := by decide
theorem test_text_comment : lineOf setup0 "SYS.SETIN 3, 0xA5 ; drive a pin" = some [.sysSetin 3#3 0xA5#8] := by decide
theorem test_text_send : lineOf setup0 "VID.SEND 0x07, 0x42" =
    some [.vidWcmd 0x07#8, .vidWdata 0x42#8, .vidTrig false, .vidTrig true] := by decide
theorem test_text_operand_missing : lineOf setup0 "VID.TRIG" = none := by decide

/-! ### Witnesses: a concrete state and operands that meet the hypotheses of each statement, one for each clause -/

theorem witness_PowerOnStateHoldsTheResetValues :
    State.reset = State.powerOn Setup.default ∧ ({ dirty with now := 0, out := [] } : State).now = 0 ∧
    ({ dirty with now := 0, out := [] } : State).out = [] := ⟨rfl, rfl, rfl⟩

theorem witness_DecodeOfEncodeIsTheOperation :
    (Instr.sysRestore 5#8 0xFF#8 0#8 0#8 0#8 0xFF#8).wellFormed = true ∧ (Instr.sysSetin 5#3 0xFF#8).wellFormed = true ∧
    (Instr.synTighten 0xFFFFFFFFFFFF#48).wellFormed = true := by decide

theorem witness_EncodeOfDecodeIsTheWord : decode 0x430000000000053C#64 = .ok (.sysSetin 5#3 0x3C#8) := rfl

theorem witness_DecoderAcceptsExactlyTheOpcodeRows :
    (∃ i, decode 0x0100000000000000#64 = .ok i) ∧ Instr.pselRead.row ∈ opcodeRows ∧
    Instr.pselRead.row.spells 0x0100000000000000#64 = true := ⟨⟨.pselRead, rfl⟩, by decide, by decide⟩

theorem witness_BytesOfAnOperationDecodeBack : (Instr.sysRestore 5#8 1#8 2#8 3#8 4#8 5#8).wellFormed = true := by decide

theorem witness_StepRunsTheDecodedTransaction_of_main :
    let s : State := { running with inbox := [.word 0x08#64], held := [.audRlatch] }
    s.setup.periodicResetEnable = false ∧ s.inbox = .word 0x08#64 :: [] ∧ decode 0x08#64 = .ok (.pselSelect 0x08#8) ∧
    (Instr.pselSelect 0x08#8).issuer ≠ .audio := ⟨rfl, rfl, rfl, by decide⟩

theorem witness_StepRunsTheDecodedTransaction_of_audio :
    let s : State := { running with inbox := [.word 0x2300000000000000#64] }
    s.setup.periodicResetEnable = false ∧ s.inbox = .word 0x2300000000000000#64 :: [] ∧
    decode 0x2300000000000000#64 = .ok .audRlatch ∧ s.held = [] := ⟨rfl, rfl, rfl, rfl⟩

theorem witness_StepRunsTheDecodedTransaction_waits :
    let s : State := { running with inbox := [.word 0x2300000000000000#64], held := [.audIrq true] }
    s.setup.periodicResetEnable = false ∧ s.inbox = .word 0x2300000000000000#64 :: [] ∧
    decode 0x2300000000000000#64 = .ok .audRlatch ∧
    (Instr.audRlatch.issuer = .audio ∧ s.areset = .released ∧ s.held ≠ []) := ⟨rfl, rfl, rfl, rfl, rfl, by decide⟩

theorem witness_StepGoesOnWithAHeldOperationAfterRelease :
    (let s : State := { running with inbox := [.resume], held := [.audRlatch] }
     s.setup.periodicResetEnable = false ∧ s.inbox = .resume :: [] ∧ s.areset = .released ∧ s.held = .audRlatch :: []) ∧
    (let s : State := { R0 with inbox := [.resume], held := [.audRlatch] }
     s.setup.periodicResetEnable = false ∧ s.inbox = .resume :: [] ∧ (s.areset = .asserted ∨ s.held = [])) :=
  ⟨⟨rfl, rfl, rfl, rfl⟩, rfl, rfl, .inl rfl⟩

theorem witness_StepRunsTheOperationPlacedForIt :
    (Instr.sysSetin 5#3 0x3C#8).wellFormed = true ∧ State.reset.setup.periodicResetEnable = false := by decide

theorem witness_StepRefusesWhatTheSpecRefuses :
    (State.powerOn { setup0 with periodicResetEnable := true }).setup.periodicResetEnable = true ∧
    (let s : State := { R0 with inbox := [.word 0x5000000000000000#64] }
     s.setup.periodicResetEnable = false ∧ s.inbox = .word 0x5000000000000000#64 :: [] ∧
     decode 0x5000000000000000#64 = .error .unassignedUnit) := ⟨rfl, rfl, rfl, rfl⟩

theorem witness_WithNothingToPerformCoreWaits :
    State.reset.setup.periodicResetEnable = false ∧ State.reset.inbox = [] := ⟨rfl, rfl⟩

/-- Both cases occur: an operation that completes and one that is held. -/
theorem witness_EveryOperationCompletesOrIsHeld :
    Instr.audRlatch.wellFormed = true ∧ (Instr.sysSetin 5#3 0#8).wellFormed = true ∧
    look State.held (exec .audRlatch running) = some [] ∧ look State.held (exec .audRlatch R0) = some [.audRlatch] := by decide

theorem witness_IndexAboveFiveIsRefused : 5 < (6#8 : Byte).toNat ∧ 5 < (6#3 : BitVec 3).toNat ∧ 5 < (7#3 : BitVec 3).toNat := by decide

theorem witness_AudioOperationsAreHeldInReset : R0.areset = .asserted := rfl

theorem witness_IgnoredOperandsChangeNothing :
    (0x00#8 : Byte) ∉ [0x01#8, 0x02#8, 0x04#8, 0x08#8, 0x80#8, 0x40#8] ∧
    (0x03#8 : Byte) ∉ [0x01#8, 0x02#8, 0x04#8, 0x08#8, 0x80#8, 0x40#8] ∧
    (false = R0.setup.aresetRunLevel ↔ R0.areset = .released) ∧ (true = running.setup.aresetRunLevel ↔ running.areset = .released) ∧
    running.areset = .released := by decide

theorem witness_SelectDecodesTheSixCodes : (0xC0#8 : Byte) ∉ [0x01#8, 0x02#8, 0x04#8, 0x08#8, 0x80#8, 0x40#8] := by decide

theorem witness_ReadReturnsTheSelectedGroup : dirty.pins[dirty.psel] = some 0x5A#8 := by decide

theorem witness_ReadOfAnUndrivenGroupCompletes : R0.pins[R0.psel] = none := by decide

theorem witness_SelectThenReadRoutesTheGroup : dirty.pins[(4 : Index)] = some 0x5A#8 ∧ ∀ j : Index, (0x10#8 : Byte) ≠ selectCode j := by
  decide

theorem witness_SelectorIsMovedOnlyBySelectResetAndRestore :
    (∃ t, exec (.pselSelect 0x40#8) R0 = .next t ∧ t.psel ≠ R0.psel) ∧ (∃ t, exec .sysReset dirty = .next t ∧ t.psel ≠ dirty.psel) ∧
    (∃ t, exec (.sysRestore 5#8 0#8 0#8 0#8 0#8 0#8) R0 = .next t ∧ t.psel ≠ R0.psel) ∧
    selectCode 5 = 0x40#8 ∧ Instr.vidEstate ≠ .pselRead ∧ Instr.vidEstate ≠ .sysSave :=
  ⟨⟨_, rfl, by decide⟩, ⟨_, rfl, by decide⟩, ⟨_, rfl, by decide⟩, rfl, by decide, by decide⟩

/-- The active edge with either polarity, and a call that is not one. -/
theorem witness_TriggerDeliversOnTheActiveEdge :
    (R0.vtrig ≠ true ∧ (true = true ↔ R0.setup.vtrigEdge = .rising)) ∧
    (let s : State := { dirty with setup := { setup0 with vtrigEdge := .falling } }
     s.vtrig ≠ false ∧ (false = true ↔ s.setup.vtrigEdge = .rising)) ∧
    ¬(dirty.vtrig ≠ false ∧ (false = true ↔ dirty.setup.vtrigEdge = .rising)) ∧
    ¬(dirty.vtrig ≠ true ∧ (true = true ↔ dirty.setup.vtrigEdge = .rising)) := by decide

theorem witness_DeliveriesEqualActiveEdges :
    (∃ t, runOperations [.vidTrig true, .vidTrig false] R0 = .next t) ∧ activeEdges [.vidTrig true, .vidTrig false] R0 = 1 :=
  ⟨⟨_, rfl⟩, by decide⟩

theorem witness_NoDeliveryWithoutTheOppositeEdgeFirst :
    dirty.vtrig = activeLevel dirty.setup ∧
    (∀ i ∈ [Instr.vidTrig true, .vidWcmd 1#8], i ≠ .sysReset ∧ i ≠ .vidTrig (!activeLevel dirty.setup)) ∧
    ∃ t, runOperations [.vidTrig true, .vidWcmd 1#8] dirty = .next t := ⟨by decide, by decide, _, rfl⟩

theorem witness_DataAndCommandWritesMayComeInEitherOrder : R0.vtrig ≠ activeLevel R0.setup := by decide

/-- In Idle, a write that changes the latch and one that does not. -/
theorem witness_CommandWriteKeepsTheTriggerFlag :
    dirty.astate = .idle ∧ look State.alatch (exec (.audWcmd 0x00#8) dirty) = some 0x80#8 ∧
    look State.alatch (exec (.audWcmd 0x7F#8) dirty) = some 0xFF#8 := by decide

theorem witness_TriggerWriteKeepsTheCommand :
    dirty.astate = .idle ∧ look State.alatch (exec (.audWtrig false) dirty) = some 0x7F#8 ∧
    look State.alatch (exec (.audWtrig true) dirty) = some 0xFF#8 := by decide

theorem witness_TriggerFlagIsMovedOnlyByItsWriteAndReset :
    (∃ t, exec (.audWtrig true) R0 = .next t ∧ latchTrigger t.alatch ≠ latchTrigger R0.alatch) ∧
    (∃ t, exec .sysReset dirty = .next t ∧ latchTrigger t.alatch ≠ latchTrigger dirty.alatch) ∧
    (∃ t, exec .audRlatch dirty = .next t) ∧ dirty.areset = .released :=
  ⟨⟨_, rfl, by decide⟩, ⟨_, rfl, by decide⟩, ⟨_, rfl⟩, rfl⟩

/-- An assert, a release, and a repeat of each level. -/
theorem witness_ResetLineActsOnTransitionsOnly :
    (dirty.areset = .released ∧ false ≠ dirty.setup.aresetRunLevel) ∧ (R0.areset = .asserted ∧ true = R0.setup.aresetRunLevel) ∧
    (¬(dirty.areset = .released ∧ true ≠ dirty.setup.aresetRunLevel) ∧ ¬(dirty.areset = .asserted ∧ true = dirty.setup.aresetRunLevel)) ∧
    (¬(R0.areset = .released ∧ false ≠ R0.setup.aresetRunLevel) ∧ ¬(R0.areset = .asserted ∧ false = R0.setup.aresetRunLevel)) := by decide

theorem witness_AudioReadReturnsTheLatch :
    running.areset = .released ∧ running.astate = .awaitingAck ∧ dirty.areset = .released ∧ dirty.astate ≠ .awaitingAck := by decide

theorem witness_InterruptLineFollowsTheAudioElement :
    running.areset = .released ∧ (running.airq = false ∧ true = true) ∧ dirty.areset = .released ∧ ¬(dirty.airq = false ∧ true = true) ∧
    ¬(running.airq = false ∧ false = true) := by decide

theorem witness_InterruptIsRaisedAndClearedOnlyAsStated :
    (∃ t, exec (.audIrq true) running = .next t ∧ running.airq = false ∧ t.airq = true) ∧
    (∃ t, exec (.audIrq false) dirty = .next t ∧ dirty.airq = true ∧ t.airq = false) ∧
    (∃ t, exec (.audReset false) dirty = .next t ∧ dirty.airq = true ∧ t.airq = false) ∧
    (∃ t, exec .sysReset dirty = .next t ∧ dirty.airq = true ∧ t.airq = false) :=
  ⟨⟨_, rfl, rfl, rfl⟩, ⟨_, rfl, rfl, rfl⟩, ⟨_, rfl, rfl, rfl⟩, ⟨_, rfl, rfl, rfl⟩⟩

/-- The premise holds in each of the three states of the handshake. -/
theorem witness_HandshakeFollowsItsTransitionTable :
    (R0.astate = .audioHalted ↔ R0.areset = .asserted) ∧ (running.astate = .audioHalted ↔ running.areset = .asserted) ∧
    (dirty.astate = .audioHalted ↔ dirty.areset = .asserted) ∧ (∃ t, exec (.audReset true) R0 = .next t) ∧
    (∃ t, exec .audRlatch running = .next t) ∧ (∃ t, exec (.audWcmd 0x00#8) dirty = .next t) ∧
    (∃ t, exec (.audIrq true) R0 = .next t) :=
  ⟨by decide, by decide, by decide, ⟨_, rfl⟩, ⟨_, rfl⟩, ⟨_, rfl⟩, ⟨_, rfl⟩⟩

theorem witness_TightenAddsOneWindow : (0#48 : BitVec 48).toNat = 0 ∧ (1#48 : BitVec 48).toNat ≠ 0 := by decide

/-- A window in force, one at its expiry, and none at all. -/
theorem witness_GranularityIsTheLeastInForce :
    (⟨10000, 90000⟩ : Tightening) ∈ dirty.windows ∧ dirty.now < 90000 ∧ (∀ w ∈ dirty.windows, 0 < w.gran) ∧ R0.windows = [] ∧
    ¬({ dirty with now := 90000 } : State).now < 90000 := by decide

theorem witness_DuplicateRequestsAreHarmlessAndOrderFree :
    (∃ t, runOperations ([.synTighten 10000#48] ++ [10000#48].map .synAdvance ++ [.synGran]) R0 = .next t) ∧
    (∃ u, runOperations ([.synTighten 10000#48, .synTighten 10000#48] ++ [10000#48].map .synAdvance ++ [.synGran]) R0 = .next u) ∧
    (∃ t, runOperations [.synTighten 20000#48, .synTighten 10000#48] R0 = .next t) ∧
    (∃ u, runOperations [.synTighten 10000#48, .synTighten 20000#48] R0 = .next u) := ⟨⟨_, rfl⟩, ⟨_, rfl⟩, ⟨_, rfl⟩, ⟨_, rfl⟩⟩

theorem witness_TighteningIsRequestedAtExactlyTwoPoints :
    (∃ t, exec (.audReset R0.setup.aresetRunLevel) R0 = .next t ∧ R0.areset = .asserted) ∧
    (∃ t, exec (.audIrq true) running = .next t ∧ running.areset = .released ∧ running.airq = false) ∧
    (∃ t, exec (.synTighten 1#48) R0 = .next t) := ⟨⟨_, rfl, rfl⟩, ⟨_, rfl, rfl, rfl⟩, ⟨_, rfl⟩⟩

/-- A burst of exactly the granularity in force. -/
theorem witness_FaithfulScheduleNeverDrifts :
    (∃ t, runOperations [.synAdvance 1000000#48] R0 = .next t) ∧ faithfulSchedule [.synAdvance 1000000#48] R0 ∧ R0.drift = false := by
  refine ⟨⟨_, rfl⟩, ⟨?_, trivial⟩, rfl⟩
  intro dt h
  injection h with h
  subst h
  decide

theorem witness_TimingNeverChangesWhatIsComputed :
    withoutTiming R0 = withoutTiming { R0 with windows := [⟨1, 2⟩], now := 1, drift := true } ∧
    (∀ i ∈ [Instr.audReset true, .synAdvance 5#48, .vidTrig true], i ≠ .synGran) ∧
    withoutTimingAndResult R0 = withoutTimingAndResult { R0 with windows := [⟨1, 2⟩], result := .time 1 } := ⟨rfl, by decide, rfl⟩

theorem witness_RestoreWritesTheSixFieldsOnly : (5#8 : Byte).toNat ≤ 5 ∧ (0#8 : Byte).toNat ≤ 5 := by decide

theorem witness_SaveThenRestoreGivesBackTheSession :
    ∃ t, exec .sysSave dirty = .next t ∧ t.result = .image 0x040102030405#48 := ⟨_, rfl, by decide⟩

theorem witness_SetinDrivesOneGroup : (5#3 : BitVec 3).toNat ≤ 5 ∧ (0#3 : BitVec 3).toNat ≤ 5 := by decide

theorem witness_ParametersNeverChange :
    (∃ t, exec .sysReset dirty = .next t) ∧ (∀ k v, Instr.sysReset ≠ .sysSetin k v) ∧
    ∃ t, step (State.reset.withFetchWord 64 0x08) = .next t := ⟨⟨_, rfl⟩, fun _ _ h => by injection h, _, rfl⟩

/-- One operation of each unit other than SYS. -/
theorem witness_EachElementIsWrittenByItsOwner :
    (∃ t, exec (.pselSelect 0x40#8) R0 = .next t) ∧ (Instr.pselSelect 0x40#8).unitFn.1 ≠ 4#4 ∧
    (∃ t, exec (.vidTrig true) R0 = .next t) ∧ (Instr.vidTrig true).unitFn.1 ≠ 4#4 ∧
    (∃ t, exec (.audReset true) R0 = .next t) ∧ (Instr.audReset true).unitFn.1 ≠ 4#4 ∧
    (∃ t, exec (.synAdvance 1#48) R0 = .next t) ∧ (Instr.synAdvance 1#48).unitFn.1 ≠ 4#4 :=
  ⟨⟨_, rfl⟩, by decide, ⟨_, rfl⟩, by decide, ⟨_, rfl⟩, by decide, ⟨_, rfl⟩, by decide⟩

theorem witness_EventsAreOnlyAppended : ∃ t, step (State.reset.withFetchWord 64 0x1200000000000001) = .next t := ⟨_, rfl⟩

theorem witness_EveryStepKeepsTheInvariant :
    Inv R0 ∧ ∃ t, step (R0.withFetchWord 64 0x2200000000000001) = .next t :=
  ⟨⟨by decide, by decide, by decide, by decide, by decide, by decide⟩, _, rfl⟩

/-- The first and the last address of a window, and the ones just outside. -/
theorem witness_MirrorsReachTheSameRegister :
    (window0.base ≤ 0x1000 ∧ 0x1000 < window0.base + 2 ^ (window0.regBits + window0.mirrorBits)) ∧
    (window0.base ≤ 0x100F ∧ 0x100F < window0.base + 2 ^ (window0.regBits + window0.mirrorBits)) ∧
    ¬(window0.base ≤ 0x0FFF ∧ 0x0FFF < window0.base + 2 ^ (window0.regBits + window0.mirrorBits)) ∧
    ¬(window0.base ≤ 0x1010 ∧ 0x1010 < window0.base + 2 ^ (window0.regBits + window0.mirrorBits)) ∧
    0x100B + 2 ^ window0.regBits < window0.base + 2 ^ (window0.regBits + window0.mirrorBits) := by decide

theorem witness_BusIsRefusedWithoutABinding :
    let s : State := { R0 with inbox := [.memRead .main 0] }
    s.setup.periodicResetEnable = false ∧ s.inbox = .memRead .main 0 :: [] ∧ (∀ w, Input.memRead .main 0 ≠ .word w) ∧
    Input.memRead .main 0 ≠ .resume ∧ (s.setup.variant = .a ∧ s.setup.bindingA = none) ∧
    (({ setup0 with variant := .b } : Setup).variant = .b ∧ ({ setup0 with variant := .b } : Setup).bindingB = none) :=
  ⟨rfl, rfl, fun _ h => by injection h, fun h => by injection h, ⟨rfl, rfl⟩, rfl, rfl⟩

theorem witness_BusAccessPerformsTheBoundOperation :
    (bus0.setup.periodicResetEnable = false ∧ bus0.setup.windows = windows0 ∧ bus0.setup.variant = .a ∧
      bus0.setup.bindingA = some binding0 ∧ (bus0.areset = .asserted ∨ bus0.held = [])) ∧
    busRegister windows0.main 0x1001 = some ⟨0, 1⟩ ∧ boundTo ⟨0, 0⟩ binding0.mainWrites = some .pselSelect ∧
    boundTo ⟨0, 1⟩ binding0.mainWrites = some .vidWdata ∧ boundTo ⟨0, 2⟩ binding0.mainWrites = some .vidWcmd ∧
    boundTo ⟨0, 3⟩ binding0.mainWrites = some .audWcmd ∧ boundTo ⟨1, 0⟩ binding0.mainWrites = none ∧
    (⟨0, 1⟩ : RegRef) ∈ binding0.mainReads ∧ busRegister windows0.audio 0x1004 = some ⟨0, 0⟩ ∧
    (⟨0, 0⟩ : RegRef) ∈ binding0.audioReads ∧ boundTo ⟨.main, 0, 0⟩ binding0.lines = some .vidTrig ∧
    boundTo ⟨.main, 1, 0⟩ binding0.lines = some .audWtrig ∧ boundTo ⟨.main, 1, 1⟩ binding0.lines = some .audReset ∧
    boundTo ⟨.audio, 0, 0⟩ binding0.lines = some .audIrq :=
  ⟨⟨rfl, rfl, rfl, rfl, .inl rfl⟩, by decide, by decide, by decide, by decide, by decide, by decide, by decide, by decide, by decide,
    by decide, by decide, by decide, by decide⟩

theorem witness_LinesOfTextStandForTransactions :
    readLine setup0 "VID.PULSE".toList = .ok [.vidTrig false, .vidTrig true] := rfl

end Sys2Proof.Tests
end

section
/-! PROOFS. The selector, the audio trigger flag and the output lines (10_state.md R21, R30, R37): what can move an element, and
which operations do not depend on it. -/

namespace Sys2Proof.Machine

/-! ### The output lines (R37, R161) -/

@[simp] theorem aCpuReset_iff (s : State) : aCpuReset s = true ↔ s.areset = .asserted := by simp [aCpuReset]

@[simp] theorem aTimerReset_iff (s : State) : aTimerReset s = true ↔ s.areset = .asserted := by simp [aTimerReset]

/-- Settles O54: the two reset lines by their equivalences, GRAN by what SYN.GRAN answers, the others by definition. -/
theorem outputLinesFollowTheState : Obligations.OutputLinesFollowTheState :=
  fun s => ⟨aCpuReset_iff s, aTimerReset_iff s, rfl, rfl, rfl, exec_synGran s⟩

/-! ### What moves the selector (R21, R123) -/

/-- A byte that chooses an index is that index's select code. -/
theorem selectIndex_eq_some {c : Byte} {k : Index} (h : selectIndex c = some k) : c = selectCode k := by
  by_cases hc : ∃ j, c = selectCode j
  · obtain ⟨j, rfl⟩ := hc
    rw [selectIndex_selectCode] at h
    exact congrArg selectCode (Option.some.inj h)
  · rw [selectIndex_eq_none (not_exists.mp hc)] at h
    cases h

/-- An operation leaves the selector as it is, or is one of its three writers. -/
theorem exec_psel_cases {i : Instr} {s t : State} (h : exec i s = .next t) :
    t.psel = s.psel ∨ (∃ k, i = .pselSelect (selectCode k) ∧ t.psel = k) ∨ (i = .sysReset ∧ t.psel = 0) ∨
    ∃ i0 i1 i2 i3 i4 i5, i = .sysRestore i0 i1 i2 i3 i4 i5 ∧ t.psel.val = i0.toNat := by
  apply exec_next_cases h
  case sel =>
    intro c hi
    cases hc : selectIndex c with
    | none => exact .inl rfl
    | some k => exact .inr (.inl ⟨k, selectIndex_eq_some hc ▸ hi, rfl⟩)
  case rs => exact fun hi => .inr (.inr (.inl ⟨hi, rfl⟩))
  case re => exact fun i0 i1 i2 i3 i4 i5 _ hi hk => .inr (.inr (.inr ⟨i0, i1, i2, i3, i4, i5, hi, hk⟩))
  all_goals
    intros
    left
    simp

/-! ### What does not read the selector (R123) -/

theorem driveTrigger_setPsel (l : Level) (s : State) (k : Index) :
    driveTrigger l { s with psel := k } = { driveTrigger l s with psel := k } := by
  have he : isActiveEdge { s with psel := k } l = isActiveEdge s l := rfl
  unfold driveTrigger
  rw [he]
  split <;> rfl

theorem driveReset_setPsel (r : ResetLine) (s : State) (k : Index) :
    driveReset r { s with psel := k } = { driveReset r s with psel := k } := by
  cases ha : s.areset <;> cases r <;> simp only [driveReset, ha] <;> rfl

theorem driveIrq_setPsel (l : Level) (s : State) (k : Index) :
    driveIrq l { s with psel := k } = { driveIrq l s with psel := k } := by
  unfold driveIrq
  dsimp only
  split <;> rfl

theorem ResetLine.asserted_or_released (r : ResetLine) : r = .asserted ∨ r = .released := by cases r <;> simp

/-- But for PSEL.READ and SYS.SAVE, the outcome of an operation apart from the selector is the same whatever the selector is. -/
theorem exec_ignores_psel {i : Instr} (hr : i ≠ .pselRead) (hs : i ≠ .sysSave) (s : State) (k : Index) :
    mapNext (fun t => { t with psel := 0 }) (exec i { s with psel := k }) =
      mapNext (fun t => { t with psel := 0 }) (exec i s) := by
  cases i with
  | pselRead => exact absurd rfl hr
  | sysSave => exact absurd rfl hs
  | pselSelect c => rw [exec_pselSelect, exec_pselSelect]; rfl
  | vidTrig l => rw [exec_vidTrig, exec_vidTrig, driveTrigger_setPsel]; rfl
  | audReset l => rw [exec_audReset, exec_audReset, driveReset_setPsel]; rfl
  | audRlatch =>
    rcases s.areset.asserted_or_released with ha | ha
    · rw [exec_audRlatch_held ha, exec_audRlatch_held (s := { s with psel := k }) ha]; rfl
    · rw [exec_audRlatch_released ha, exec_audRlatch_released (s := { s with psel := k }) ha]; rfl
  | audIrq l =>
    rcases s.areset.asserted_or_released with ha | ha
    · rw [exec_audIrq_held l ha, exec_audIrq_held (s := { s with psel := k }) l ha]; rfl
    · rw [exec_audIrq_released l ha, exec_audIrq_released (s := { s with psel := k }) l ha, driveIrq_setPsel]; rfl
  | synTighten g =>
    by_cases hg : g.toNat = 0
    · rw [exec_synTighten_zero _ hg, exec_synTighten_zero _ hg]; rfl
    · rw [exec_synTighten_pos _ hg, exec_synTighten_pos _ hg]; rfl
  | sysRestore i0 i1 i2 i3 i4 i5 =>
    by_cases hg : 5 < i0.toNat
    · rw [exec_sysRestore_of_gt _ _ _ _ _ _ hg, exec_sysRestore_of_gt _ _ _ _ _ _ hg]
    · have hk : (⟨i0.toNat, by omega⟩ : Index).val = i0.toNat := rfl
      rw [exec_sysRestore_of_le _ _ _ _ _ _ hk, exec_sysRestore_of_le _ _ _ _ _ _ hk]
  | sysSetin j v =>
    by_cases hg : 5 < j.toNat
    · rw [exec_sysSetin_of_gt _ _ hg, exec_sysSetin_of_gt _ _ hg]
    · have hk : (⟨j.toNat, by omega⟩ : Index).val = j.toNat := rfl
      rw [exec_sysSetin_of_le _ _ hk, exec_sysSetin_of_le _ _ hk]; rfl
  | vidWdata | vidWcmd | vidEstate | audWcmd | audWtrig | synAdvance | synGran | sysReset => rfl

/-- Settles O21: the writers by `exec_psel_cases`, the readers by `exec_ignores_psel`. -/
theorem selectorIsMovedOnlyBySelectResetAndRestore : Obligations.SelectorIsMovedOnlyBySelectResetAndRestore := by
  refine ⟨rfl, fun i s => ⟨fun t h => ⟨Nat.le_of_lt_succ t.psel.isLt, fun hne => ?_, ?_⟩, fun hr hs k => exec_ignores_psel hr hs s k⟩⟩
  · rcases exec_psel_cases h with same | ⟨k, hi, _⟩ | ⟨hi, _⟩ | ⟨i0, i1, i2, i3, i4, i5, hi, _⟩
    · exact absurd same hne
    · exact .inl ⟨k, hi⟩
    · exact .inr (.inl hi)
    · exact .inr (.inr ⟨i0, i1, i2, i3, i4, i5, hi⟩)
  · rintro rfl
    rw [exec_sysReset] at h
    cases h
    rfl

/-! ### The audio latch (R27, R30, R95) -/

@[simp] theorem latchTrigger_latchWithCommand (latch byte : Byte) :
    latchTrigger (latchWithCommand latch byte) = latchTrigger latch := by
  simp [latchTrigger, latchWithCommand, merge]

@[simp] theorem latchTrigger_latchWithTrigger (latch : Byte) (l : Level) :
    latchTrigger (latchWithTrigger latch l) = l := by
  cases l <;> simp [latchTrigger, latchWithTrigger, merge, levelBits]

@[simp] theorem latchCommand_latchWithTrigger (latch : Byte) (l : Level) :
    latchCommand (latchWithTrigger latch l) = latchCommand latch := by
  cases l <;> revert latch <;> decide

/-- An operation leaves the latch as it is, or is AUD.WCMD, AUD.WTRIG or SYS.RESET. -/
theorem exec_alatch_cases {i : Instr} {s t : State} (h : exec i s = .next t) :
    t.alatch = s.alatch ∨ (∃ b, i = .audWcmd b ∧ t.alatch = latchWithCommand s.alatch b) ∨
    (∃ l, i = .audWtrig l ∧ t.alatch = latchWithTrigger s.alatch l) ∨ (i = .sysReset ∧ t.alatch = s.setup.resetAlatch) := by
  apply exec_next_cases h
  case ac => exact fun b hi => .inr (.inl ⟨b, hi, rfl⟩)
  case at' => exact fun l hi => .inr (.inr (.inl ⟨l, hi, rfl⟩))
  case rs => exact fun hi => .inr (.inr (.inr ⟨hi, rfl⟩))
  all_goals
    intros
    left
    simp

/-- Only a trigger write and session reset move the trigger flag: a command write keeps bit 7. -/
theorem exec_latchTrigger_moved {i : Instr} {s t : State} (h : exec i s = .next t)
    (hne : latchTrigger t.alatch ≠ latchTrigger s.alatch) : (∃ l, i = .audWtrig l) ∨ i = .sysReset := by
  rcases exec_alatch_cases h with same | ⟨b, _, hb⟩ | ⟨l, hi, _⟩ | ⟨hi, _⟩
  · exact absurd (congrArg latchTrigger same) hne
  · exact absurd (by rw [hb, latchTrigger_latchWithCommand]) hne
  · exact .inl ⟨l, hi⟩
  · exact .inr hi

/-- Settles O33: what moves the flag by `exec_latchTrigger_moved`, the rest by what the three operations answer. -/
theorem triggerFlagIsMovedOnlyByItsWriteAndReset : Obligations.TriggerFlagIsMovedOnlyByItsWriteAndReset := by
  refine ⟨rfl, fun i s t h => ⟨exec_latchTrigger_moved h, ?_, ?_, ?_⟩⟩
  · rintro l rfl
    rw [exec_audWtrig] at h
    cases h
    exact ⟨latchTrigger_latchWithTrigger _ _, latchCommand_latchWithTrigger _ _⟩
  · rintro rfl
    rw [exec_sysReset] at h
    cases h
    rfl
  · rintro rfl ha
    rw [exec_audRlatch_released ha] at h
    cases h
    exact ⟨s.alatch, rfl, rfl⟩

end Sys2Proof.Machine
end

section
/-! PROOFS. The Port Selector (40_port_selector.md): what a select and a read of the selected group do, and the words of a class B
operation. -/

namespace Sys2Proof

/-! ### A word as the word of its unit and function or-ed with the operand (R102) -/

theorem assembleWord_eq_or_operand (u f : BitVec 4) (o : Operand) :
    assembleWord u f o = assembleWord u f 0#48 ||| o.setWidth 64 := by
  apply BitVec.eq_of_getLsbD_eq
  intro i hi
  rw [BitVec.getLsbD_or, BitVec.getLsbD_setWidth, assembleWord_getLsbD, assembleWord_getLsbD]
  by_cases low : i < 48
  · simp [low, hi]
  · have hn : o.getLsbD i = false := BitVec.getLsbD_of_ge o i (by omega)
    simp [low, hn]

/-- The word of a class B operation (R92): its byte is or-ed in unchanged. -/
theorem encode_of_byte_operand {i : Instr} {u f : BitVec 4} {b : Byte} {w : Word} (hu : i.unitFn = (u, f))
    (hw : assembleWord u f 0#48 = w) (ho : i.operand = 0#40 ++ b) : encode i = w ||| b.setWidth 64 := by
  have extended : (0#40 ++ b : Operand) = b.setWidth 48 := (BitVec.setWidth_eq_append (by decide)).symm
  rw [encode, hu, ho, assembleWord_eq_or_operand, hw, extended, BitVec.setWidth_setWidth (by decide)]

namespace Machine

/-! ### PSEL.SELECT (R120) -/

theorem exec_pselSelect_selectCode (k : Index) (s : State) :
    exec (.pselSelect (selectCode k)) s = .next { s with psel := k, result := .none } := by
  rw [exec_pselSelect, selectIndex_selectCode]
  rfl

theorem exec_pselSelect_unmapped {c : Byte} (h : ∀ k, c ≠ selectCode k) (s : State) :
    exec (.pselSelect c) s = .next { s with result := .none } := by
  rw [exec_pselSelect, selectIndex_eq_none h]
  rfl

theorem selectCode_mem_sixCodes (k : Index) : selectCode k ∈ [0x01#8, 0x02#8, 0x04#8, 0x08#8, 0x80#8, 0x40#8] := by
  revert k; decide

/-- Settles O17: each of the six codes is the select code of its index, and a byte outside the list is the code of none. -/
theorem selectDecodesTheSixCodes : Obligations.SelectDecodesTheSixCodes := by
  intro code s
  refine ⟨rfl, encode_of_byte_operand rfl (by decide) rfl, ?_, ?_, ?_, ?_, ?_, ?_, fun hc => ?_⟩
  · rintro rfl; exact exec_pselSelect_selectCode 0 s
  · rintro rfl; exact exec_pselSelect_selectCode 1 s
  · rintro rfl; exact exec_pselSelect_selectCode 2 s
  · rintro rfl; exact exec_pselSelect_selectCode 3 s
  · rintro rfl; exact exec_pselSelect_selectCode 4 s
  · rintro rfl; exact exec_pselSelect_selectCode 5 s
  · have unmapped : ∀ k, code ≠ selectCode k := by
      rintro k rfl
      exact hc (selectCode_mem_sixCodes k)
    exact exec_pselSelect_unmapped unmapped s

/-! ### PSEL.READ (R121) -/

theorem exec_pselRead_driven {s : State} {v : Byte} (h : portData s = some v) :
    exec .pselRead s = .next { s with result := .byte v } := by
  rw [exec_pselRead, h]
  rfl

/-- Settles O18: the group that PSEL.READ reads is the one `portData` gives. -/
theorem readReturnsTheSelectedGroup : Obligations.ReadReturnsTheSelectedGroup :=
  ⟨rfl, rfl, fun _ _ => exec_pselRead_driven⟩

end Machine
end Sys2Proof
end

section
/-! PROOFS. The video channel (41_video_channel.md): the latch writes. -/

namespace Sys2Proof.Machine

/-! ### VID.WDATA (R130) -/

/-- Settles O22: the word by `encode_of_byte_operand` at unit 1, function 0, the next state by `exec_vidWdata`. -/
theorem writeDataWritesTheDataLatchOnly : Obligations.WriteDataWritesTheDataLatchOnly :=
  fun byte s => ⟨rfl, encode_of_byte_operand rfl (by decide) rfl, exec_vidWdata byte s⟩

end Sys2Proof.Machine
end

section
/-! PROOFS. The Interleave Synchronizer (43_synchronizer.md): nothing outside the timing layer depends on it, what the granularity
in force is, and what appends an event and so requests tightening. -/

namespace Sys2Proof.Machine

/-! ### Noninterference of the timing layer (R188) -/

/-- The state without the timing layer, and with only what `keep` keeps of the result last returned: with `id` it is
`withoutTiming`, with a constant `withoutTimingAndResult`, so that both views share one argument. -/
def withoutTimingKeeping (keep : OpResult → OpResult) (s : State) : State :=
  { withoutTiming s with result := keep s.result }

theorem withoutTimingKeeping_id : withoutTimingKeeping id = withoutTiming := rfl

theorem withoutTimingKeeping_const : withoutTimingKeeping (fun _ => .none) = withoutTimingAndResult := rfl

section
variable (keep : OpResult → OpResult) (s : State) (v : OpResult)

theorem driveTrigger_withoutTimingKeeping (l : Level) :
    driveTrigger l (withoutTimingKeeping keep s) = withoutTimingKeeping keep (driveTrigger l s) := by
  have sameEdge : isActiveEdge (withoutTimingKeeping keep s) l = isActiveEdge s l := rfl
  unfold driveTrigger
  rw [sameEdge]
  split <;> rfl

/-- A release adds a window that the view does not show. -/
theorem withoutTimingKeeping_driveReset (r : ResetLine) :
    withoutTimingKeeping keep { driveReset r (withoutTimingKeeping keep s) with result := v } =
      withoutTimingKeeping keep { driveReset r s with result := v } := by
  have sameLine : (withoutTimingKeeping keep s).areset = s.areset := rfl
  cases ha : s.areset <;> cases r <;> simp only [driveReset, sameLine, ha] <;> rfl

/-- A rise adds a window that the view does not show. -/
theorem withoutTimingKeeping_driveIrq (l : Level) :
    withoutTimingKeeping keep { driveIrq l (withoutTimingKeeping keep s) with result := v } =
      withoutTimingKeeping keep { driveIrq l s with result := v } := by
  have sameLine : (withoutTimingKeeping keep s).airq = s.airq := rfl
  unfold driveIrq
  rw [sameLine]
  split <;> rfl

end

/-- Seen without the timing layer, an operation does the same from a state and from that state without it. Only SYN.GRAN answers from
the layer, so for it `keep` must not tell results apart; a held operation leaves the result, so `keep` acts on it twice. -/
theorem exec_withoutTimingKeeping {keep : OpResult → OpResult} {i : Instr} (twice : ∀ v, keep (keep v) = keep v)
    (gran_hidden : i = .synGran → ∀ v w, keep v = keep w) (s : State) :
    mapNext (withoutTimingKeeping keep) (exec i (withoutTimingKeeping keep s)) =
      mapNext (withoutTimingKeeping keep) (exec i s) := by
  have sameHeld : withoutTimingKeeping keep { withoutTimingKeeping keep s with held := s.held ++ [i] } =
      withoutTimingKeeping keep { s with held := s.held ++ [i] } := by
    simp only [withoutTimingKeeping, withoutTiming, twice]
  cases i with
  | synGran =>
    rw [exec_synGran, exec_synGran]
    simp only [mapNext, withoutTimingKeeping, withoutTiming, gran_hidden rfl _ OpResult.none]
  | pselSelect c => rw [exec_pselSelect, exec_pselSelect]; rfl
  | pselRead => rw [exec_pselRead, exec_pselRead]; rfl
  | vidTrig l => rw [exec_vidTrig, exec_vidTrig, driveTrigger_withoutTimingKeeping]; rfl
  | audReset l => exact congrArg Host.Outcome.next (withoutTimingKeeping_driveReset keep s .none (resetLineOf s.setup l))
  | audRlatch =>
    rcases s.areset.asserted_or_released with ha | ha
    · rw [exec_audRlatch_held ha, exec_audRlatch_held (s := withoutTimingKeeping keep s) ha]
      exact congrArg Host.Outcome.next sameHeld
    · rw [exec_audRlatch_released ha, exec_audRlatch_released (s := withoutTimingKeeping keep s) ha]; rfl
  | audIrq l =>
    rcases s.areset.asserted_or_released with ha | ha
    · rw [exec_audIrq_held l ha, exec_audIrq_held (s := withoutTimingKeeping keep s) l ha]
      exact congrArg Host.Outcome.next sameHeld
    · rw [exec_audIrq_released l ha, exec_audIrq_released (s := withoutTimingKeeping keep s) l ha]
      exact congrArg Host.Outcome.next (withoutTimingKeeping_driveIrq keep s .none l)
  | synTighten g =>
    by_cases hz : g.toNat = 0
    · rw [exec_synTighten_zero _ hz, exec_synTighten_zero _ hz]; rfl
    · rw [exec_synTighten_pos _ hz, exec_synTighten_pos _ hz]; rfl
  | sysRestore i0 i1 i2 i3 i4 i5 =>
    by_cases h5 : 5 < i0.toNat
    · rw [exec_sysRestore_of_gt _ _ _ _ _ _ h5, exec_sysRestore_of_gt _ _ _ _ _ _ h5]
    · have hk : (⟨i0.toNat, by omega⟩ : Index).val = i0.toNat := rfl
      rw [exec_sysRestore_of_le _ _ _ _ _ _ hk, exec_sysRestore_of_le _ _ _ _ _ _ hk]; rfl
  | sysSetin k v =>
    by_cases h5 : 5 < k.toNat
    · rw [exec_sysSetin_of_gt _ _ h5, exec_sysSetin_of_gt _ _ h5]
    · have hk : (⟨k.toNat, by omega⟩ : Index).val = k.toNat := rfl
      rw [exec_sysSetin_of_le _ _ hk, exec_sysSetin_of_le _ _ hk]; rfl
  | vidWdata | vidWcmd | vidEstate | audWcmd | audWtrig | synAdvance | sysReset | sysSave => rfl

/-- From states that agree in a view, a sequence has outcomes that agree in it, if each of its operations does. -/
theorem runOperations_congr_view {view : State → State} : ∀ {is : List Instr},
    (∀ i ∈ is, ∀ s s', view s = view s' → mapNext view (exec i s) = mapNext view (exec i s')) →
    ∀ s s', view s = view s' → mapNext view (runOperations is s) = mapNext view (runOperations is s')
  | [], _, _, _, agree => congrArg Host.Outcome.next agree
  | i :: is, each, s, s', agree => by
    obtain ⟨first, rest⟩ := List.forall_mem_cons.mp each
    have agreeNext := first s s' agree
    unfold runOperations
    cases ht : exec i s <;> cases ht' : exec i s' <;> rw [ht, ht'] at agreeNext
    case next.next t t' => exact runOperations_congr_view rest t t' (Host.Outcome.next.inj agreeNext)
    case fault.fault => exact agreeNext
    case refused.refused => exact agreeNext
    all_goals cases agreeNext

/-- A sequence does not tell apart states that differ only in the timing layer and in what the view hides of the result. -/
theorem runOperations_congr_withoutTimingKeeping {keep : OpResult → OpResult} {is : List Instr} {s s' : State}
    (twice : ∀ v, keep (keep v) = keep v) (gran_hidden : ∀ i ∈ is, i = .synGran → ∀ v w, keep v = keep w)
    (agree : withoutTimingKeeping keep s = withoutTimingKeeping keep s') :
    mapNext (withoutTimingKeeping keep) (runOperations is s) = mapNext (withoutTimingKeeping keep) (runOperations is s') :=
  runOperations_congr_view (fun i hi s s' agree => by
    rw [← exec_withoutTimingKeeping twice (gran_hidden i hi) s, agree, exec_withoutTimingKeeping twice (gran_hidden i hi) s'])
    s s' agree

/-- Settles O45: the two views are those that keep the result, which needs that no SYN.GRAN is there, and that hide it. -/
theorem timingNeverChangesWhatIsComputed : Obligations.TimingNeverChangesWhatIsComputed := by
  refine ⟨fun is s s' agree no_gran => ?_, fun is s s' agree => ?_⟩
  · rw [← withoutTimingKeeping_id] at agree ⊢
    exact runOperations_congr_withoutTimingKeeping (fun _ => rfl) (fun i hi is_gran => absurd is_gran (no_gran i hi)) agree
  · rw [← withoutTimingKeeping_const] at agree ⊢
    exact runOperations_congr_withoutTimingKeeping (fun _ => rfl) (fun _ _ _ _ _ => rfl) agree

/-! ### The granularity in force (R184, R185) -/

theorem gran_le_qDefault (s : State) : gran s ≤ qDefault s.setup := leastGran_le_default _ _

theorem gran_le_of_inForce {s : State} {w : Tightening} (hw : w ∈ s.windows) (hf : s.now < w.expiry) : gran s ≤ w.gran :=
  leastGran_le_of_mem (List.mem_filter.mpr ⟨hw, decide_eq_true hf⟩)

/-- The granularity in force is `Q_DEFAULT` or that of a window in force. -/
theorem gran_cases (s : State) : gran s = qDefault s.setup ∨ ∃ w ∈ s.windows, s.now < w.expiry ∧ gran s = w.gran := by
  rcases leastGran_eq (qDefault s.setup) (s.windows.filter (inForce s.now)) with hd | ⟨w, hw, hg⟩
  · exact .inl hd
  · obtain ⟨mem, hf⟩ := List.mem_filter.mp hw
    exact .inr ⟨w, mem, of_decide_eq_true hf, hg⟩

theorem gran_of_no_windows {s : State} (h : s.windows = []) : gran s = qDefault s.setup := by
  rw [gran, h]
  rfl

theorem gran_pos {s : State} (h : ∀ w ∈ s.windows, 0 < w.gran) : 0 < gran s := by
  rcases gran_cases s with hd | ⟨w, hw, _, hg⟩
  · rw [hd]; exact qDefault_pos s.setup
  · rw [hg]; exact h w hw

/-- Settles O40: what SYN.GRAN answers is `gran`. -/
theorem granularityIsTheLeastInForce : Obligations.GranularityIsTheLeastInForce :=
  ⟨rfl, rfl, fun s => ⟨gran s, exec_synGran s, gran_le_qDefault s, fun _ => gran_le_of_inForce, gran_cases s,
    gran_of_no_windows, gran_pos⟩⟩

/-! ### What an operation appends to OUT (R44, R182) -/

/-- The events that an operation appends to `OUT`. -/
def appendedEvents (s : State) : Instr → List Event
  | .vidTrig l => if isActiveEdge s l then [.draw s.vcmd s.vdata s.vprev] else []
  | .audReset l => if l = s.setup.aresetRunLevel ∧ s.areset = .asserted then [.timerReset, .tighten qTight] else []
  | .audIrq l => if l = true ∧ s.areset = .released ∧ s.airq = false then [.tighten qTight] else []
  | .synTighten g => if g.toNat = 0 then [] else [.tighten g.toNat]
  | .sysReset => [.sessionReset]
  | .pselSelect _ | .pselRead | .vidWdata _ | .vidWcmd _ | .vidEstate | .audWcmd _ | .audWtrig _ | .audRlatch | .synAdvance _
  | .synGran | .sysSave | .sysRestore .. | .sysSetin .. => []

theorem driveTrigger_out (l : Level) (s : State) : (driveTrigger l s).out = s.out ++ appendedEvents s (.vidTrig l) := by
  by_cases active : isActiveEdge s l = true <;> simp [driveTrigger, appendedEvents, active]

theorem driveReset_out (l : Level) (s : State) :
    (driveReset (resetLineOf s.setup l) s).out = s.out ++ appendedEvents s (.audReset l) := by
  by_cases run : l = s.setup.aresetRunLevel <;> cases ha : s.areset <;>
    simp [driveReset, resetLineOf, appendedEvents, run, ha]

theorem driveIrq_out {s : State} (l : Level) (ha : s.areset = .released) :
    (driveIrq l s).out = s.out ++ appendedEvents s (.audIrq l) := by
  cases l <;> cases low : s.airq <;> simp [driveIrq, edge, appendedEvents, ha, low]

/-- An operation that completes or is held appends exactly its events. -/
theorem exec_out {i : Instr} {s t : State} (h : exec i s = .next t) : t.out = s.out ++ appendedEvents s i := by
  apply exec_next_cases h
  case tr => rintro l rfl; exact driveTrigger_out l s
  case ar => rintro l rfl; exact driveReset_out l s
  case irq => rintro ha l rfl; exact driveIrq_out l ha
  case hl => rintro ha (rfl | ⟨l, rfl⟩) <;> simp [appendedEvents, ha]
  case t1 => rintro g rfl hg; simp [appendedEvents, hg]
  all_goals
    intros
    subst i
    simp [appendedEvents]

/-- Tightening is requested by the release of the audio reset line, by the rise of the audio interrupt, and by SYN.TIGHTEN. -/
theorem tighten_mem_appendedEvents {i : Instr} {s : State} {g : Nat} : Event.tighten g ∈ appendedEvents s i ↔
    (i = .audReset s.setup.aresetRunLevel ∧ s.areset = .asserted ∧ g = qTight) ∨
    (i = .audIrq true ∧ s.areset = .released ∧ s.airq = false ∧ g = qTight) ∨
    ∃ d, i = .synTighten d ∧ d.toNat = g ∧ g ≠ 0 := by
  cases i with
  | audReset l => simp [appendedEvents, and_assoc]
  | audIrq l => simp [appendedEvents, and_assoc]
  | synTighten d =>
    have positive : (d.toNat ≠ 0 ∧ g = d.toNat) ↔ (d.toNat = g ∧ g ≠ 0) := by omega
    simpa [appendedEvents] using positive
  | vidTrig l => simp [appendedEvents]
  | pselSelect | pselRead | vidWdata | vidWcmd | vidEstate | audWcmd | audWtrig | audRlatch | synAdvance | synGran | sysReset
  | sysSave | sysRestore | sysSetin => simp [appendedEvents]

/-- Settles O43: what is appended is `appendedEvents`, and `tighten_mem_appendedEvents` says when a request is among it. -/
theorem tighteningIsRequestedAtExactlyTwoPoints : Obligations.TighteningIsRequestedAtExactlyTwoPoints :=
  fun i s _ h => ⟨appendedEvents s i, exec_out h, fun _ => tighten_mem_appendedEvents.mp,
    fun ⟨hi, ha⟩ => tighten_mem_appendedEvents.mpr (.inl ⟨hi, ha, rfl⟩),
    fun ⟨hi, ha, hq⟩ => tighten_mem_appendedEvents.mpr (.inr (.inl ⟨hi, ha, hq, rfl⟩))⟩

end Sys2Proof.Machine
end

section
/-! PROOFS. The session operations (44_session.md): the bytes of the save image, and what SYS.SAVE answers. -/

namespace Sys2Proof.Machine

/-! ### The save image (R202) -/

/-- A selector fits in its byte of the image (R21). -/
theorem toNat_selectorByte (k : Index) : (BitVec.ofNat 8 k.val).toNat = k.val :=
  (BitVec.toNat_ofNat k.val 8).trans (Nat.mod_eq_of_lt (k.isLt.trans (by decide)))

theorem saveImage_bytes (s : State) :
    (saveImage s).extractLsb' 40 8 = BitVec.ofNat 8 s.psel.val ∧ (saveImage s).extractLsb' 32 8 = s.vx ∧
    (saveImage s).extractLsb' 24 8 = s.vy ∧ (saveImage s).extractLsb' 16 8 = s.vcmd ∧
    (saveImage s).extractLsb' 8 8 = s.vdata ∧ (saveImage s).extractLsb' 0 8 = s.vprev :=
  image_bytes (BitVec.ofNat 8 s.psel.val) s.vx s.vy s.vcmd s.vdata s.vprev

/-- The first byte of the image is the selector (R203). -/
theorem saveImage_selector (s : State) : ((saveImage s).extractLsb' 40 8).toNat = s.psel.val := by
  rw [(saveImage_bytes s).1, toNat_selectorByte]

/-! ### SYS.SAVE (R203) -/

/-- Settles O47: the image is `saveImage`; its first byte is at most 5 because it is the selector, which is an index. -/
theorem saveReturnsTheSixFields : Obligations.SaveReturnsTheSixFields := by
  refine ⟨rfl, by decide, fun s => ⟨saveImage s, exec_sysSave s, saveImage_selector s, ?_, (saveImage_bytes s).2⟩⟩
  rw [saveImage_selector]
  exact Nat.le_of_lt_succ s.psel.isLt

end Sys2Proof.Machine
end

section
/-! PROOFS. The transaction words (30_encoding.md): each operation's operand class, what a word decodes to, the rows of the operation
map, and the byte form. -/

namespace Sys2Proof

/-! ### The operand class of an operation (R92, R93) -/

/-- The operand decoder of an operation's class. -/
def Instr.operandDecoder : Instr → Operand → Except DecodeError Instr
  | .pselSelect _ => decodeB .pselSelect
  | .pselRead => decodeN .pselRead
  | .vidWdata _ => decodeB .vidWdata
  | .vidWcmd _ => decodeB .vidWcmd
  | .vidTrig _ => decodeL .vidTrig
  | .vidEstate => decodeN .vidEstate
  | .audWcmd _ => decodeB .audWcmd
  | .audWtrig _ => decodeL .audWtrig
  | .audReset _ => decodeL .audReset
  | .audRlatch => decodeN .audRlatch
  | .audIrq _ => decodeL .audIrq
  | .synTighten _ => decodeT .synTighten
  | .synAdvance _ => decodeT .synAdvance
  | .synGran => decodeN .synGran
  | .sysReset => decodeN .sysReset
  | .sysSave => decodeN .sysSave
  | .sysRestore .. => decodeI .sysRestore
  | .sysSetin .. => decodeK .sysSetin

/-- The operand bits that an operation's row of R93 asks to be zero. -/
def Instr.operandMask : Instr → Operand
  | .pselRead | .vidEstate | .audRlatch | .synGran | .sysReset | .sysSave => BitVec.allOnes 48
  | .pselSelect _ | .vidWdata _ | .vidWcmd _ | .audWcmd _ => BitVec.allOnes 40 ++ 0#8
  | .vidTrig _ | .audWtrig _ | .audReset _ | .audIrq _ => BitVec.allOnes 47 ++ 0#1
  | .synTighten _ | .synAdvance _ | .sysRestore .. => 0#48
  | .sysSetin .. => BitVec.allOnes 37 ++ 0#11

theorem decodeFunction_unitFn (i : Instr) :
    decodeFunction i.unitFn.1.toNat i.unitFn.2.toNat = .ok i.operandDecoder := by
  cases i <;> rfl

theorem row_pattern (i : Instr) : i.row.pattern = assembleWord i.unitFn.1 i.unitFn.2 0#48 := by
  cases i <;> (simp only [Instr.row, Instr.unitFn]; decide)

theorem row_mask (i : Instr) : i.row.mask = 0xFFFF#16 ++ i.operandMask := by
  cases i <;> (simp only [Instr.row, Instr.operandMask]; decide)

theorem row_mem_opcodeRows (i : Instr) : i.row ∈ opcodeRows := by
  cases i <;> simp [opcodeRows, representatives, Instr.row]

theorem mem_opcodeRows {r : OpcodeRow} (h : r ∈ opcodeRows) : ∃ i : Instr, i.row = r := by
  obtain ⟨i, -, hi⟩ := List.mem_map.mp h
  exact ⟨i, hi⟩

/-- Every unit and function number that the operation map assigns is some operation's (R91, R93). -/
theorem decodeFunction_eq_ok {g : Operand → Except DecodeError Instr} :
    ∀ {unit fn : Nat}, decodeFunction unit fn = .ok g →
      ∃ i : Instr, i.unitFn = (BitVec.ofNat 4 unit, BitVec.ofNat 4 fn) ∧ g = i.operandDecoder
  | 0, 0, h => ⟨.pselSelect 0#8, rfl, (Except.ok.inj h).symm⟩
  | 0, 1, h => ⟨.pselRead, rfl, (Except.ok.inj h).symm⟩
  | 1, 0, h => ⟨.vidWdata 0#8, rfl, (Except.ok.inj h).symm⟩
  | 1, 1, h => ⟨.vidWcmd 0#8, rfl, (Except.ok.inj h).symm⟩
  | 1, 2, h => ⟨.vidTrig false, rfl, (Except.ok.inj h).symm⟩
  | 1, 3, h => ⟨.vidEstate, rfl, (Except.ok.inj h).symm⟩
  | 2, 0, h => ⟨.audWcmd 0#8, rfl, (Except.ok.inj h).symm⟩
  | 2, 1, h => ⟨.audWtrig false, rfl, (Except.ok.inj h).symm⟩
  | 2, 2, h => ⟨.audReset false, rfl, (Except.ok.inj h).symm⟩
  | 2, 3, h => ⟨.audRlatch, rfl, (Except.ok.inj h).symm⟩
  | 2, 4, h => ⟨.audIrq false, rfl, (Except.ok.inj h).symm⟩
  | 3, 0, h => ⟨.synTighten 0#48, rfl, (Except.ok.inj h).symm⟩
  | 3, 1, h => ⟨.synAdvance 0#48, rfl, (Except.ok.inj h).symm⟩
  | 3, 2, h => ⟨.synGran, rfl, (Except.ok.inj h).symm⟩
  | 4, 0, h => ⟨.sysReset, rfl, (Except.ok.inj h).symm⟩
  | 4, 1, h => ⟨.sysSave, rfl, (Except.ok.inj h).symm⟩
  | 4, 2, h => ⟨.sysRestore 0#8 0#8 0#8 0#8 0#8 0#8, rfl, (Except.ok.inj h).symm⟩
  | 4, 3, h => ⟨.sysSetin 0#3 0#8, rfl, (Except.ok.inj h).symm⟩
  | 0, _ + 2, h | 1, _ + 4, h | 2, _ + 5, h | 3, _ + 3, h | 4, _ + 4, h | _ + 5, _, h => nomatch h

/-! ### What a word decodes to (R90, R102) -/

/-- A word with an operation's unit and function and no reserved bit decodes by that operation's class. -/
theorem decode_eq_operandDecoder {w : Word} {i : Instr} (hu : (unitField w, fnField w) = i.unitFn) (hr : rsvField w = 0#8) :
    decode w = i.operandDecoder (opndField w) := by
  have hf := decodeFunction_unitFn i
  rw [← hu] at hf
  simp only [decode, hf, hr, if_true]

theorem decode_eq_ok {w : Word} {j : Instr} (h : decode w = .ok j) :
    ∃ i : Instr, i.unitFn = (unitField w, fnField w) ∧ rsvField w = 0#8 ∧ i.operandDecoder (opndField w) = .ok j := by
  cases hf : decodeFunction (unitField w).toNat (fnField w).toNat with
  | error e => simp [decode, hf] at h
  | ok g =>
    obtain ⟨i, hu, rfl⟩ := decodeFunction_eq_ok hf
    simp only [BitVec.ofNat_toNat, BitVec.setWidth_eq] at hu
    by_cases hr : rsvField w = 0#8
    · exact ⟨i, hu, hr, by simpa only [decode, hf, hr, if_true] using h⟩
    · simp [decode, hf, hr] at h

/-! ### Decoding what was encoded (R102) -/

theorem decodeI_append (f : Byte → Byte → Byte → Byte → Byte → Byte → Instr) {i0 : Byte} (i1 i2 i3 i4 i5 : Byte)
    (h : i0.toNat ≤ 5) : decodeI f (i0 ++ i1 ++ i2 ++ i3 ++ i4 ++ i5) = .ok (f i0 i1 i2 i3 i4 i5) := by
  obtain ⟨h0, h1, h2, h3, h4, h5⟩ := image_bytes i0 i1 i2 i3 i4 i5
  unfold decodeI
  rw [h0, h1, h2, h3, h4, h5, if_pos h]

theorem decodeK_append (f : BitVec 3 → Byte → Instr) {k : BitVec 3} (v : Byte) (h : k.toNat ≤ 5) :
    decodeK f (0#37 ++ k ++ v) = .ok (f k v) := by
  have hv : BitVec.extractLsb' (n := 48) 0 8 (0#37 ++ k ++ v) = v := extractLsb'_append_low (0#37 ++ k) v
  have hk : BitVec.extractLsb' (n := 48) 8 3 (0#37 ++ k ++ v) = k :=
    (extractLsb'_append_of_ge (0#37 ++ k) v (Nat.le_refl 8)).trans (extractLsb'_append_low 0#37 k)
  have hz : BitVec.extractLsb' (n := 48) 11 37 (0#37 ++ k ++ v) = 0#37 :=
    (extractLsb'_append_of_ge (0#37 ++ k) v (by decide)).trans (extractLsb'_append_high 0#37 k)
  unfold decodeK
  rw [hv, hk, hz, if_pos rfl, if_pos h]

theorem operandDecoder_operand {i : Instr} (h : i.wellFormed = true) : i.operandDecoder i.operand = .ok i := by
  cases i with
  | sysRestore i0 i1 i2 i3 i4 i5 => exact decodeI_append _ _ _ _ _ _ (of_decide_eq_true h)
  | sysSetin k v => exact decodeK_append _ _ (of_decide_eq_true h)
  | synTighten | synAdvance => rfl
  | pselSelect | vidWdata | vidWcmd | audWcmd => exact decodeB_append _ _
  | vidTrig | audWtrig | audReset | audIrq => exact decodeL_append _ _
  | pselRead | vidEstate | audRlatch | synGran | sysReset | sysSave => exact decodeN_zero _

theorem decode_encode {i : Instr} (h : i.wellFormed = true) : decode (encode i) = .ok i := by
  have hu : (unitField (encode i), fnField (encode i)) = i.unitFn := by simp [encode]
  have hr : rsvField (encode i) = 0#8 := rsvField_assembleWord _ _ _
  have ho : opndField (encode i) = i.operand := opndField_assembleWord _ _ _
  rw [decode_eq_operandDecoder hu hr, ho, operandDecoder_operand h]

/-- Settles O2: the word's unit and function choose the operation's own class, which reads its operand back. -/
theorem decodeOfEncodeIsTheOperation : Obligations.DecodeOfEncodeIsTheOperation := fun _ => decode_encode

/-! ### Encoding what was decoded (R102) -/

theorem exists_of_decodeI {f : Byte → Byte → Byte → Byte → Byte → Byte → Instr} {o : Operand} {j : Instr}
    (h : decodeI f o = .ok j) : ∃ i0 i1 i2 i3 i4 i5, j = f i0 i1 i2 i3 i4 i5 := by
  unfold decodeI at h
  split at h <;> cases h
  exact ⟨_, _, _, _, _, _, rfl⟩

theorem exists_of_decodeK {f : BitVec 3 → Byte → Instr} {o : Operand} {j : Instr} (h : decodeK f o = .ok j) :
    ∃ k v, j = f k v := by
  unfold decodeK at h
  split at h
  · split at h <;> cases h
    exact ⟨_, _, rfl⟩
  · cases h

/-- What an operation's class reads is that operation with the operand it was read from. -/
theorem operandDecoder_eq_ok {i j : Instr} {o : Operand} (h : i.operandDecoder o = .ok j) :
    j.row = i.row ∧ j.unitFn = i.unitFn ∧ j.operand = o ∧ j.wellFormed = true := by
  cases i with
  | pselSelect | vidWdata | vidWcmd | audWcmd =>
    obtain ⟨b, rfl, rfl⟩ := decodeB_eq_ok h
    exact ⟨rfl, rfl, rfl, rfl⟩
  | vidTrig | audWtrig | audReset | audIrq =>
    obtain ⟨l, rfl, rfl⟩ := decodeL_eq_ok h
    exact ⟨rfl, rfl, rfl, rfl⟩
  | pselRead | vidEstate | audRlatch | synGran | sysReset | sysSave =>
    obtain ⟨rfl, rfl⟩ := decodeN_eq_ok h
    exact ⟨rfl, rfl, rfl, rfl⟩
  | synTighten | synAdvance =>
    cases h
    exact ⟨rfl, rfl, rfl, rfl⟩
  | sysRestore =>
    obtain ⟨wf, ho, hu⟩ := decodeI_eq_ok h
    obtain ⟨_, _, _, _, _, _, rfl⟩ := exists_of_decodeI h
    exact ⟨rfl, hu, ho, wf⟩
  | sysSetin =>
    obtain ⟨wf, ho, hu⟩ := decodeK_eq_ok h
    obtain ⟨_, _, rfl⟩ := exists_of_decodeK h
    exact ⟨rfl, hu, ho, wf⟩

theorem encode_of_decode {w : Word} {i : Instr} (h : decode w = .ok i) : encode i = w ∧ i.wellFormed = true := by
  obtain ⟨j, hu, hr, hd⟩ := decode_eq_ok h
  obtain ⟨-, hui, ho, wf⟩ := operandDecoder_eq_ok hd
  refine ⟨?_, wf⟩
  rw [encode, hui, hu, ho]
  exact assembleWord_fields hr

/-- Settles O3: the decoded operation has the word's unit, function and operand, and the word has no other bit. -/
theorem encodeOfDecodeIsTheWord : Obligations.EncodeOfDecodeIsTheWord := fun _ _ => encode_of_decode

/-- Settles O5: the pattern of a row is the word of its unit and function with operand 0. -/
theorem encodingIsPatternOrOperand : Obligations.EncodingIsPatternOrOperand := by
  intro i
  rw [encode, assembleWord_eq_or_operand, row_pattern]

/-! ### The rows of the operation map (R93) -/

theorem encode_and_mask (i : Instr) : Laws.RowMatch.Statement i := by
  cases i with
  | pselSelect code => exact Laws.RowMatch.pselSelect code
  | pselRead => exact Laws.RowMatch.pselRead
  | vidWdata b => exact Laws.RowMatch.vidWdata b
  | vidWcmd b => exact Laws.RowMatch.vidWcmd b
  | vidTrig l => exact Laws.RowMatch.vidTrig l
  | vidEstate => exact Laws.RowMatch.vidEstate
  | audWcmd b => exact Laws.RowMatch.audWcmd b
  | audWtrig l => exact Laws.RowMatch.audWtrig l
  | audReset l => exact Laws.RowMatch.audReset l
  | audRlatch => exact Laws.RowMatch.audRlatch
  | audIrq l => exact Laws.RowMatch.audIrq l
  | synTighten t => exact Laws.RowMatch.synTighten t
  | synAdvance dt => exact Laws.RowMatch.synAdvance dt
  | synGran => exact Laws.RowMatch.synGran
  | sysReset => exact Laws.RowMatch.sysReset
  | sysSave => exact Laws.RowMatch.sysSave
  | sysRestore i0 i1 i2 i3 i4 i5 => exact Laws.RowMatch.sysRestore i0 i1 i2 i3 i4 i5
  | sysSetin k v => exact Laws.RowMatch.sysSetin k v

/-- A part of a word below bit 48 is a part of its operand. -/
theorem extractLsb'_eq_opndField (w : Word) {start len : Nat} (h : start + len ≤ 48) :
    w.extractLsb' start len = (opndField w).extractLsb' start len := by
  apply BitVec.eq_of_getLsbD_eq
  intro i hi
  have : start + i < 48 := by omega
  simp [opndField, this]

/-- What the extra condition of an operation's row asks of its word is what makes the operation well formed. -/
theorem row_extra_encode (i : Instr) : i.row.extra.holds (encode i) = i.wellFormed := by
  cases i with
  | sysRestore i0 i1 i2 i3 i4 i5 =>
    have hs : (encode (.sysRestore i0 i1 i2 i3 i4 i5)).extractLsb' 40 8 = i0 := by
      rw [extractLsb'_eq_opndField _ (by decide), encode, opndField_assembleWord]
      exact (image_bytes i0 i1 i2 i3 i4 i5).1
    simp only [Instr.row, ExtraCondition.holds, Instr.wellFormed, hs]
  | sysSetin k v =>
    have hk : (encode (.sysSetin k v)).extractLsb' 8 3 = k := by
      rw [extractLsb'_eq_opndField _ (by decide), encode, opndField_assembleWord]
      exact (extractLsb'_append_of_ge (0#37 ++ k) v (Nat.le_refl 8)).trans (extractLsb'_append_low 0#37 k)
    simp only [Instr.row, ExtraCondition.holds, Instr.wellFormed, hk]
  | pselSelect | pselRead | vidWdata | vidWcmd | vidTrig | vidEstate | audWcmd | audWtrig | audReset | audRlatch | audIrq
  | synTighten | synAdvance | synGran | sysReset | sysSave => rfl

theorem spells_of_decode {w : Word} {i : Instr} (h : decode w = .ok i) : i.row.spells w = true := by
  obtain ⟨rfl, wf⟩ := encode_of_decode h
  have hm : encode i &&& i.row.mask = i.row.pattern := encode_and_mask i
  simp [OpcodeRow.spells, hm, row_extra_encode, wf]

/-- The fields of a word that meets an operation's pattern and mask. -/
theorem fields_of_and_mask {w : Word} {i : Instr} (h : w &&& i.row.mask = i.row.pattern) :
    (unitField w, fnField w) = i.unitFn ∧ rsvField w = 0#8 ∧ opndField w &&& i.operandMask = 0#48 := by
  rw [row_mask, row_pattern] at h
  have high (start len : Nat) (hs : 48 ≤ start) : w.extractLsb' start len &&& (0xFFFF#16).extractLsb' (start - 48) len =
      (assembleWord i.unitFn.1 i.unitFn.2 0#48).extractLsb' start len := by
    rw [← h, BitVec.extractLsb'_and]
    exact congrArg _ (extractLsb'_append_of_ge _ _ hs).symm
  have low : opndField w &&& i.operandMask = opndField (assembleWord i.unitFn.1 i.unitFn.2 0#48) := by
    rw [← h, opndField, opndField, BitVec.extractLsb'_and]
    exact congrArg _ (extractLsb'_append_low _ _).symm
  have hu : unitField w &&& BitVec.allOnes 4 = i.unitFn.1 := (high 60 4 (by decide)).trans (unitField_assembleWord _ _ _)
  have hf : fnField w &&& BitVec.allOnes 4 = i.unitFn.2 := (high 56 4 (by decide)).trans (fnField_assembleWord _ _ _)
  have hr : rsvField w &&& BitVec.allOnes 8 = 0#8 := (high 48 8 (by decide)).trans (rsvField_assembleWord _ _ _)
  rw [BitVec.and_allOnes] at hu hf hr
  exact ⟨by rw [hu, hf], hr, low.trans (opndField_assembleWord _ _ _)⟩

/-- The part of an operand that a mask of ones above `b` zeros asks to be zero. -/
theorem extractLsb'_eq_zero_of_and {a b : Nat} {o : BitVec (a + b)} (h : o &&& (BitVec.allOnes a ++ 0#b) = 0#(a + b)) :
    o.extractLsb' b a = 0#a := by
  have part := congrArg (BitVec.extractLsb' b a) h
  rw [BitVec.extractLsb'_and, extractLsb'_append_high, BitVec.and_allOnes] at part
  rw [part]
  exact BitVec.extractLsb'_zero

/-- An operand that meets its row's mask and extra condition is read by the class. -/
theorem operandDecoder_of_and_mask {w : Word} {i : Instr} (hm : opndField w &&& i.operandMask = 0#48)
    (hx : i.row.extra.holds w = true) : ∃ j, i.operandDecoder (opndField w) = .ok j := by
  cases i with
  | pselRead | vidEstate | audRlatch | synGran | sysReset | sysSave =>
    rw [Instr.operandMask, BitVec.and_allOnes] at hm
    exact ⟨_, if_pos hm⟩
  | pselSelect | vidWdata | vidWcmd | audWcmd => exact ⟨_, if_pos (extractLsb'_eq_zero_of_and (a := 40) (b := 8) hm)⟩
  | vidTrig | audWtrig | audReset | audIrq => exact ⟨_, if_pos (extractLsb'_eq_zero_of_and (a := 47) (b := 1) hm)⟩
  | synTighten | synAdvance => exact ⟨_, rfl⟩
  | sysRestore =>
    have h5 : (w.extractLsb' 40 8).toNat ≤ 5 := of_decide_eq_true hx
    rw [extractLsb'_eq_opndField w (by decide)] at h5
    exact ⟨_, if_pos h5⟩
  | sysSetin =>
    have h5 : (w.extractLsb' 8 3).toNat ≤ 5 := of_decide_eq_true hx
    rw [extractLsb'_eq_opndField w (by decide)] at h5
    exact ⟨_, (if_pos (extractLsb'_eq_zero_of_and (a := 37) (b := 11) hm)).trans (if_pos h5)⟩

/-- A word that spells an operation's row decodes to an operation of that row. -/
theorem decode_of_spells {w : Word} {i : Instr} (h : i.row.spells w = true) : ∃ j, decode w = .ok j ∧ j.row = i.row := by
  rw [OpcodeRow.spells, Bool.and_eq_true, beq_iff_eq] at h
  obtain ⟨hp, hx⟩ := h
  obtain ⟨hu, hr, hm⟩ := fields_of_and_mask hp
  obtain ⟨j, hj⟩ := operandDecoder_of_and_mask hm hx
  exact ⟨j, (decode_eq_operandDecoder hu hr).trans hj, (operandDecoder_eq_ok hj).1⟩

/-- Settles O4: a word that spells a row decodes to an operation of that row, so it spells no other. -/
theorem decoderAcceptsExactlyTheOpcodeRows : Obligations.DecoderAcceptsExactlyTheOpcodeRows := by
  refine ⟨rfl, fun w => ⟨⟨?_, ?_⟩, ?_, fun i h => ⟨row_mem_opcodeRows i, spells_of_decode h⟩⟩⟩
  · rintro ⟨i, h⟩
    exact ⟨i.row, row_mem_opcodeRows i, spells_of_decode h⟩
  · rintro ⟨r, hr, h⟩
    obtain ⟨i, rfl⟩ := mem_opcodeRows hr
    obtain ⟨j, hj, -⟩ := decode_of_spells h
    exact ⟨j, hj⟩
  · intro r hr r' hr' h h'
    obtain ⟨i, rfl⟩ := mem_opcodeRows hr
    obtain ⟨i', rfl⟩ := mem_opcodeRows hr'
    obtain ⟨j, hj, rowj⟩ := decode_of_spells h
    obtain ⟨j', hj', rowj'⟩ := decode_of_spells h'
    cases hj.symm.trans hj'
    exact rowj.symm.trans rowj'

/-! ### The byte form (R65, R90) -/

theorem append_wordBytes (w : Word) :
    w.extractLsb' 56 8 ++ w.extractLsb' 48 8 ++ w.extractLsb' 40 8 ++ w.extractLsb' 32 8 ++ w.extractLsb' 24 8 ++
      w.extractLsb' 16 8 ++ w.extractLsb' 8 8 ++ w.extractLsb' 0 8 = w := by
  have join (m start : Nat) := extractLsb'_append_extractLsb' (m := m) (k := 8) w start
  rw [join 8 48, join 16 40, join 24 32, join 32 24, join 40 16, join 48 8]
  exact (join 56 0).trans (extractLsb'_all w)

theorem decodeBytes_wordBytes {w : Word} {i : Instr} (rest : List Byte) (h : decode w = .ok i) :
    decodeBytes (wordBytes w ++ rest) = .ok (i, rest) := by
  simp only [wordBytes, List.cons_append, List.nil_append, decodeBytes]
  rw [append_wordBytes, h]

/-- Settles O6: the eight bytes of a word make the word again. -/
theorem bytesOfAnOperationDecodeBack : Obligations.BytesOfAnOperationDecodeBack :=
  fun _ rest wf => ⟨decodeBytes_wordBytes rest (decode_encode wf), rfl⟩

/-- Settles O7: the decoder evaluated at the eight words. -/
theorem workedEncodingsDecode : Obligations.WorkedEncodingsDecode := by
  refine ⟨?_, ?_, ?_, ?_, ?_, ?_, ?_, ?_⟩ <;> decide

namespace Machine

/-- An operation that is not well formed is no word's. -/
theorem decode_ne_of_not_wellFormed {i : Instr} (h : i.wellFormed = false) (w : Word) : decode w ≠ .ok i := by
  intro hd
  rw [(encode_of_decode hd).2] at h
  cases h

/-- Settles O14: such an operation is not well formed. -/
theorem indexAboveFiveIsRefused : Obligations.IndexAboveFiveIsRefused := by
  refine ⟨fun i0 i1 i2 i3 i4 i5 s h => ⟨exec_sysRestore_of_gt i1 i2 i3 i4 i5 s h, decode_ne_of_not_wellFormed ?_⟩,
    fun k v s h => ⟨exec_sysSetin_of_gt v s h, decode_ne_of_not_wellFormed ?_⟩⟩
  · exact decide_eq_false (Nat.not_le.mpr h)
  · exact decide_eq_false (Nat.not_le.mpr h)

end Machine
end Sys2Proof
end

section
/-! PROOFS. The step (20_memory.md, 60_exceptions.md): what is performed, held, waits or is refused, from a word and from the bus. -/

namespace Sys2Proof.Machine

/-! ### Step by what fetching finds -/

theorem step_of_operation {s t : State} {i : Instr} (h : fetch s = .operation i t) : step s = exec i t := by
  rw [step, h]

theorem step_of_noOperation {s t : State} (h : fetch s = .noOperation t) : step s = .next t := by
  rw [step, h]

theorem step_of_refused {s : State} {r : Refusal} (h : fetch s = .refused r) : step s = .refused r := by
  rw [step, h]

theorem step_of_idle {s : State} (h : fetch s = .idle) : step s = .next s := by
  rw [step, h]

/-! ### Step by the next input (R70, R98, R223) -/

section
variable {s : State} {inp : Input} {rest : List Input} {i : Instr}

/-- An input that stands for an operation is performed, unless its audio element still holds an earlier one. -/
theorem step_of_input (hp : s.setup.periodicResetEnable = false) (hi : s.inbox = inp :: rest) (hn : inp ≠ .resume)
    (ho : inputOperation s.setup inp = .ok (some i)) (hw : i.issuer ≠ .audio ∨ s.areset = .asserted ∨ s.held = []) :
    step s = exec i { s with inbox := rest } := by
  apply step_of_operation
  rw [fetch_input hp hi hn, ho]
  exact fetchOperation_eq hw

theorem step_of_input_waits (hp : s.setup.periodicResetEnable = false) (hi : s.inbox = inp :: rest) (hn : inp ≠ .resume)
    (ho : inputOperation s.setup inp = .ok (some i)) (hw : i.issuer = .audio ∧ s.areset = .released ∧ s.held ≠ []) :
    step s = .next { s with inbox := rest, held := s.held ++ [i] } := by
  apply step_of_noOperation
  rw [fetch_input hp hi hn, ho]
  exact if_pos hw

theorem step_of_input_none (hp : s.setup.periodicResetEnable = false) (hi : s.inbox = inp :: rest) (hn : inp ≠ .resume)
    (ho : inputOperation s.setup inp = .ok none) : step s = .next { s with inbox := rest, result := .none } := by
  apply step_of_noOperation
  rw [fetch_input hp hi hn, ho]

theorem step_of_input_error {r : Refusal} (hp : s.setup.periodicResetEnable = false) (hi : s.inbox = inp :: rest)
    (hn : inp ≠ .resume) (ho : inputOperation s.setup inp = .error r) : step s = .refused r := by
  apply step_of_refused
  rw [fetch_input hp hi hn, ho]

end

theorem inputOperation_word {w : Word} {i : Instr} (p : Setup) (h : decode w = .ok i) :
    inputOperation p (.word w) = .ok (some i) := by
  simp only [inputOperation, h]

theorem inputOperation_word_error {w : Word} {e : DecodeError} (p : Setup) (h : decode w = .error e) :
    inputOperation p (.word w) = .error (.notATransaction e) := by
  simp only [inputOperation, h]

theorem inputOperation_access {p : Setup} {b : Binding} {acc : Input} (hb : sessionBinding p = some b)
    (hw : ∀ w, acc ≠ .word w) : inputOperation p acc = .ok (accessOperation p.windows b acc) := by
  cases acc with
  | word w => exact absurd rfl (hw w)
  | memWrite | memRead | line | resume => simp only [inputOperation, hb]

theorem inputOperation_unbound {p : Setup} {acc : Input} (hb : sessionBinding p = none) (hw : ∀ w, acc ≠ .word w) :
    inputOperation p acc = .error .bindingNotSupplied := by
  cases acc with
  | word w => exact absurd rfl (hw w)
  | memWrite | memRead | line | resume => simp only [inputOperation, hb]

/-- Settles O8: a word stands for what it decodes to. -/
theorem stepRunsTheDecodedTransaction : Obligations.StepRunsTheDecodedTransaction := by
  intro s w rest i hp hi hd
  have ho := inputOperation_word s.setup hd
  exact ⟨step_of_input hp hi nofun ho, step_of_input_waits hp hi nofun ho⟩

/-- Settles O9: the turn of the audio element is `fetchHeld`. -/
theorem stepGoesOnWithAHeldOperationAfterRelease : Obligations.StepGoesOnWithAHeldOperationAfterRelease := by
  refine fun s rest hp hi => ⟨fun i hs ha hh => step_of_operation ?_, fun h => step_of_noOperation ?_⟩
  · rw [fetch_resume hp hi]
    exact fetchHeld_released (s := { s with inbox := rest }) ha hh
  · rw [fetch_resume hp hi]
    exact fetchHeld_none (s := { s with inbox := rest }) h

theorem tableWord_toNat (w : Word) : tableWord 64 w.toNat = w := by
  rw [tableWord, Nat.mod_eq_of_lt w.isLt, BitVec.ofNat_toNat, BitVec.setWidth_eq]

/-- Settles O10: the word placed is the operation's own, and no earlier operation is held by a running audio element. -/
theorem stepRunsTheOperationPlacedForIt : Obligations.StepRunsTheOperationPlacedForIt := by
  intro s i wf hp
  have ho : inputOperation s.setup (.word (tableWord 64 (encode i).toNat)) = .ok (some i) := by
    rw [tableWord_toNat]
    exact inputOperation_word _ (decode_encode wf)
  have runs (hw) := step_of_input (s := s.withFetchWord 64 (encode i).toNat) hp rfl nofun ho hw
  rcases s.areset.asserted_or_released with ha | ha
  · rw [runs (.inr (.inl ha)), if_neg (by rw [ha]; decide)]
    simp only [State.withFetchWord, ha]
  · rw [runs (.inr (.inr (by simp only [State.withFetchWord, ha]))), if_pos ha]
    simp only [State.withFetchWord, ha]

/-- Settles O11: the periodic reset source stops every fetch, and a word that does not decode stands for a refusal. -/
theorem stepRefusesWhatTheSpecRefuses : Obligations.StepRefusesWhatTheSpecRefuses :=
  ⟨fun _ hp => step_of_refused (if_pos hp),
    fun s _ _ _ hp hi hd => step_of_input_error hp hi nofun (inputOperation_word_error s.setup hd)⟩

/-- Settles O12: with no input fetching finds nothing to perform. -/
theorem withNothingToPerformCoreWaits : Obligations.WithNothingToPerformCoreWaits :=
  fun _ hp hi => step_of_idle (fetch_nil hp hi)

/-! ### Operations complete or are held (R220, R223) -/

/-- A well-formed operation completes without touching the held list, or is held and changes nothing else. -/
theorem exec_completes_or_holds {i : Instr} (wf : i.wellFormed = true) (s : State) :
    ∃ t, exec i s = .next t ∧
      (t.held = s.held ∨ (t = { s with held := s.held ++ [i] } ∧ i.issuer = .audio ∧ s.areset = .asserted)) := by
  cases i with
  | pselSelect c => exact ⟨_, exec_pselSelect c s, .inl rfl⟩
  | pselRead => exact ⟨_, exec_pselRead s, .inl rfl⟩
  | vidTrig l => exact ⟨_, exec_vidTrig l s, .inl (driveTrigger_held l s)⟩
  | audReset l => exact ⟨_, exec_audReset l s, .inl (driveReset_held _ s)⟩
  | audRlatch =>
    rcases s.areset.asserted_or_released with ha | ha
    · exact ⟨_, exec_audRlatch_held ha, .inr ⟨rfl, rfl, ha⟩⟩
    · exact ⟨_, exec_audRlatch_released ha, .inl rfl⟩
  | audIrq l =>
    rcases s.areset.asserted_or_released with ha | ha
    · exact ⟨_, exec_audIrq_held l ha, .inr ⟨rfl, rfl, ha⟩⟩
    · exact ⟨_, exec_audIrq_released l ha, .inl (driveIrq_held l s)⟩
  | synTighten g =>
    by_cases hg : g.toNat = 0
    · exact ⟨_, exec_synTighten_zero s hg, .inl rfl⟩
    · exact ⟨_, exec_synTighten_pos s hg, .inl rfl⟩
  | sysRestore i0 i1 i2 i3 i4 i5 =>
    have hk : (⟨i0.toNat, Nat.lt_succ_of_le (of_decide_eq_true wf)⟩ : Index).val = i0.toNat := rfl
    exact ⟨_, exec_sysRestore_of_le i1 i2 i3 i4 i5 s hk, .inl rfl⟩
  | sysSetin k v =>
    have hk : (⟨k.toNat, Nat.lt_succ_of_le (of_decide_eq_true wf)⟩ : Index).val = k.toNat := rfl
    exact ⟨_, exec_sysSetin_of_le v s hk, .inl rfl⟩
  | vidWdata | vidWcmd | vidEstate | audWcmd | audWtrig | synAdvance | synGran | sysReset | sysSave => exact ⟨_, rfl, .inl rfl⟩

/-- Settles O13: `exec_completes_or_holds`; there is no fault to answer. -/
theorem everyOperationCompletesOrIsHeld : Obligations.EveryOperationCompletesOrIsHeld :=
  fun _ s wf => ⟨exec_completes_or_holds wf s, nofun, nofun⟩

/-- Settles O15: the two operations answer by `hold` while the line is asserted. -/
theorem audioOperationsAreHeldInReset : Obligations.AudioOperationsAreHeldInReset :=
  fun _ level ha => ⟨exec_audRlatch_held ha, exec_audIrq_held level ha⟩

/-! ### The bus view (R60 to R63) -/

theorem windowRegister_inside {w : AdapterWindow} {a : Nat} (h : w.base ≤ a ∧ a < w.base + 2 ^ (w.regBits + w.mirrorBits)) :
    windowRegister w a = some ((a - w.base) % 2 ^ w.regBits) := by
  rw [windowRegister, if_pos h, Nat.and_two_pow_sub_one_eq_mod]

theorem windowRegister_outside {w : AdapterWindow} {a : Nat} (h : ¬(w.base ≤ a ∧ a < w.base + 2 ^ (w.regBits + w.mirrorBits))) :
    windowRegister w a = none := if_neg h

/-- Settles O57: the register is a remainder, which a whole number of register counts further on does not move. -/
theorem mirrorsReachTheSameRegister : Obligations.MirrorsReachTheSameRegister := by
  refine fun w a => ⟨windowRegister_inside, windowRegister_outside, fun r hr => ?_⟩
  by_cases inside : w.base ≤ a ∧ a < w.base + 2 ^ (w.regBits + w.mirrorBits)
  · rw [windowRegister_inside inside, Option.some.injEq] at hr
    subst hr
    refine ⟨Nat.mod_lt _ (Nat.two_pow_pos _), fun next => ?_⟩
    rw [windowRegister_inside ⟨Nat.le_add_right_of_le inside.1, next⟩, Nat.sub_add_comm inside.1, Nat.add_mod_right]
  · rw [windowRegister_outside inside] at hr
    cases hr

theorem sessionBinding_eq_none {p : Setup} (h : (p.variant = .a ∧ p.bindingA = none) ∨ (p.variant = .b ∧ p.bindingB = none)) :
    sessionBinding p = none := by
  rcases h with ⟨hv, hb⟩ | ⟨hv, hb⟩ <;> simp only [sessionBinding, hv, hb]

theorem sessionBinding_eq_some {p : Setup} {b : Binding}
    (h : p.variant = .a ∧ p.bindingA = some b ∨ p.variant = .b ∧ p.bindingB = some b) : sessionBinding p = some b := by
  rcases h with ⟨hv, hb⟩ | ⟨hv, hb⟩ <;> simp only [sessionBinding, hv, hb]

/-- Settles O58: without a binding an access stands for the refusal. -/
theorem busIsRefusedWithoutABinding : Obligations.BusIsRefusedWithoutABinding :=
  fun _ _ _ hp hi hw hr hb => step_of_input_error hp hi hr (inputOperation_unbound (sessionBinding_eq_none hb) hw)

theorem accessOperation_mainWrite {ws : Windows} (b : Binding) {a : Nat} {r : RegRef} (v : Byte)
    (hr : busRegister ws.main a = some r) :
    accessOperation ws b (.memWrite .main a v) = (boundTo r b.mainWrites).map (writeOperation · v) := by
  rw [accessOperation, hr]
  rfl

theorem accessOperation_mainRead {ws : Windows} {b : Binding} {a : Nat} {r : RegRef} (hr : busRegister ws.main a = some r)
    (hb : r ∈ b.mainReads) : accessOperation ws b (.memRead .main a) = some .pselRead := by
  rw [accessOperation, hr]
  exact if_pos hb

theorem accessOperation_audioRead {ws : Windows} {b : Binding} {a : Nat} {r : RegRef} (hr : busRegister ws.audio a = some r)
    (hb : r ∈ b.audioReads) : accessOperation ws b (.memRead .audio a) = some .audRlatch := by
  rw [accessOperation, hr]
  exact if_pos hb

theorem writeOperation_issuer (op : WriteOp) (v : Byte) : (writeOperation op v).issuer = .main := by cases op <;> rfl

section
variable {s : State} {b : Binding} {rest : List Input} (hp : s.setup.periodicResetEnable = false)
  (hb : sessionBinding s.setup = some b)
include hp hb

/-- What a bus access or driven line does that stands for an operation. -/
theorem step_of_access {acc : Input} {i : Instr} (hi : s.inbox = acc :: rest) (hn : acc ≠ .resume) (hw : ∀ w, acc ≠ .word w)
    (ho : accessOperation s.setup.windows b acc = some i) (hh : i.issuer ≠ .audio ∨ s.areset = .asserted ∨ s.held = []) :
    step s = exec i { s with inbox := rest } :=
  step_of_input hp hi hn ((inputOperation_access hb hw).trans (congrArg Except.ok ho)) hh

/-- A byte that the main element writes to a bound register performs the bound operation. -/
theorem step_of_bound_write {a : Nat} {r : RegRef} {v : Byte} {op : WriteOp} (hi : s.inbox = .memWrite .main a v :: rest)
    (hr : busRegister s.setup.windows.main a = some r) (ho : boundTo r b.mainWrites = some op) :
    step s = exec (writeOperation op v) { s with inbox := rest } := by
  refine step_of_access hp hb hi nofun (fun _ => nofun) ?_
    (.inl (by rw [writeOperation_issuer]; decide))
  rw [accessOperation_mainWrite b v hr, ho]
  rfl

theorem step_of_unbound_write {a : Nat} {r : RegRef} {v : Byte} (hi : s.inbox = .memWrite .main a v :: rest)
    (hr : busRegister s.setup.windows.main a = some r) (ho : boundTo r b.mainWrites = none) :
    step s = .next { s with inbox := rest, result := .none } := by
  have access := inputOperation_access (acc := .memWrite .main a v) hb (fun _ => nofun)
  rw [accessOperation_mainWrite b v hr, ho] at access
  exact step_of_input_none hp hi nofun access

/-- A bound control line performs its operation with the driven level; the audio element's waits behind one still held. -/
theorem step_of_bound_line {l : LineRef} {level : Level} {op : LineOp} (hi : s.inbox = .line l level :: rest)
    (ho : boundTo l b.lines = some op)
    (hw : (lineOperation op level).issuer ≠ .audio ∨ s.areset = .asserted ∨ s.held = []) :
    step s = exec (lineOperation op level) { s with inbox := rest } := by
  refine step_of_access hp hb hi nofun (fun _ => nofun) ?_ hw
  rw [accessOperation, ho]
  rfl

end

/-- Settles O59: one lemma for the bound writes, one for the bound lines; a read stands for the one read of its side. -/
theorem busAccessPerformsTheBoundOperation : Obligations.BusAccessPerformsTheBoundOperation := by
  intro s b rest hp hv
  have hb := sessionBinding_eq_some hv
  refine ⟨fun a r v hi hr => ?_, fun a r hi hr hm => ?_, fun a r hi hr hm hw => ?_, fun l level hi => ?_⟩
  · have bound {op : WriteOp} := step_of_bound_write (op := op) hp hb hi hr
    exact ⟨bound, bound, bound, bound, step_of_unbound_write hp hb hi hr⟩
  · exact step_of_access hp hb hi nofun (fun _ => nofun) (accessOperation_mainRead hr hm) (.inl (by decide))
  · exact step_of_access hp hb hi nofun (fun _ => nofun) (accessOperation_audioRead hr hm) (.inr hw)
  · have bound {op : LineOp} (ho : boundTo l b.lines = some op) := step_of_bound_line (level := level) hp hb hi ho
    exact ⟨fun ho => bound ho (.inl nofun), fun ho => bound ho (.inl nofun), fun ho => bound ho (.inl nofun),
      fun ho hw => bound ho (.inr hw)⟩

end Sys2Proof.Machine
end

section
/-! PROOFS. What every step keeps (10_state.md): the invariant, the parameters, the owners of the elements and the events. -/

namespace Sys2Proof.Machine

/-! ### The invariant over the shared operations -/

namespace Inv

variable {s : State} (h : Inv s)
include h

/-- Inputs and the last result are free, and any audio operations may be held. -/
theorem withHeld (rest : List Input) {held : List Instr} (v : OpResult) (audio : ∀ i ∈ held, i.issuer = .audio) :
    Inv { s with inbox := rest, held := held, result := v } :=
  ⟨h.haltedIffAsserted, h.irqLowInReset, h.windowsOrdered, h.windowsLive, audio, h.outBegins⟩

theorem withResult (v : OpResult) : Inv { s with result := v } := h.withHeld s.inbox v h.heldAreAudio

theorem held_append {i : Instr} (hi : i.issuer = .audio) : ∀ j ∈ s.held ++ [i], j.issuer = .audio := by
  intro j hj
  rcases List.mem_append.mp hj with hj | hj
  · exact h.heldAreAudio j hj
  · rwa [List.mem_singleton.mp hj]

theorem deliver : Inv (deliver s) :=
  ⟨h.haltedIffAsserted, h.irqLowInReset, h.windowsOrdered, h.windowsLive, h.heldAreAudio,
    List.mem_head?_append_of_mem_head? h.outBegins⟩

theorem driveTrigger (l : Level) : Inv (driveTrigger l s) := by
  have hl : Inv { s with vtrig := l } :=
    ⟨h.haltedIffAsserted, h.irqLowInReset, h.windowsOrdered, h.windowsLive, h.heldAreAudio, h.outBegins⟩
  unfold Machine.driveTrigger
  split
  · exact hl.deliver
  · exact hl

/-- A request adds a live window: its expiry is `W_TIGHTEN` ahead, which is positive (R181). -/
theorem tighten {g : Nat} (hg : 0 < g) : Inv (tighten g s) := by
  refine ⟨h.haltedIffAsserted, h.irqLowInReset, insertTightening_ordered h.windowsOrdered, fun w hw => ?_, h.heldAreAudio,
    List.mem_head?_append_of_mem_head? h.outBegins⟩
  rcases mem_insertTightening.mp hw with rfl | hw
  · exact ⟨hg, Nat.lt_add_of_pos_right (wTighten_pos _), Nat.le_refl _⟩
  · exact h.windowsLive w hw

/-- The windows that a burst leaves are in force after it (R186). -/
theorem advance (dt : Nat) : Inv (advance dt s) := by
  refine ⟨h.haltedIffAsserted, h.irqLowInReset, h.windowsOrdered.filter _, fun w hw => ?_, h.heldAreAudio, h.outBegins⟩
  obtain ⟨mem, inForce⟩ := List.mem_filter.mp hw
  obtain ⟨pos, -, le⟩ := h.windowsLive w mem
  exact ⟨pos, of_decide_eq_true inForce, le.trans (Nat.add_le_add_right (Nat.le_add_right _ _) _)⟩

/-- A latch write moves the handshake between two states that are not halted. -/
theorem writeLatch (new : Byte) : Inv (writeLatch new s) := by
  refine ⟨?_, h.irqLowInReset, h.windowsOrdered, h.windowsLive, h.heldAreAudio, h.outBegins⟩
  have iff := h.haltedIffAsserted
  rw [writeLatch_astate, writeLatch_areset]
  split
  · rename_i idle
    exact ⟨nofun, fun asserted => absurd ((iff.mpr asserted).symm.trans idle.1) nofun⟩
  · exact iff

theorem observeLatch : Inv (observeLatch s) := by
  refine ⟨?_, h.irqLowInReset, h.windowsOrdered, h.windowsLive, h.heldAreAudio, h.outBegins⟩
  have iff := h.haltedIffAsserted
  rw [observeLatch_astate, observeLatch_areset]
  split
  · rename_i awaiting
    exact ⟨nofun, fun asserted => absurd ((iff.mpr asserted).symm.trans awaiting) nofun⟩
  · exact iff

theorem assertReset : Inv (assertReset s) :=
  ⟨⟨fun _ => rfl, fun _ => rfl⟩, fun _ => rfl, h.windowsOrdered, h.windowsLive, h.heldAreAudio, h.outBegins⟩

theorem releaseReset : Inv (releaseReset s) := by
  have tight := h.tighten (g := qTight) (by decide)
  refine ⟨⟨nofun, nofun⟩, nofun, tight.windowsOrdered, tight.windowsLive, h.heldAreAudio, ?_⟩
  rw [releaseReset_out]
  exact List.mem_head?_append_of_mem_head? (List.mem_head?_append_of_mem_head? h.outBegins)

theorem driveReset (r : ResetLine) : Inv (driveReset r s) := by
  unfold Machine.driveReset
  split
  · exact h.assertReset
  · exact h.releaseReset
  · exact h
  · exact h

/-- Only a running audio element drives its interrupt. -/
theorem driveIrq (l : Level) (ha : s.areset = .released) : Inv (driveIrq l s) := by
  have hl : Inv { s with airq := l } :=
    ⟨h.haltedIffAsserted, fun asserted => absurd (ha.symm.trans asserted) nofun, h.windowsOrdered, h.windowsLive, h.heldAreAudio,
      h.outBegins⟩
  unfold Machine.driveIrq
  split
  · exact hl.tighten (by decide)
  · exact hl

theorem sessionReset : Inv (sessionReset s) :=
  ⟨⟨fun _ => rfl, fun _ => rfl⟩, fun _ => rfl, List.Pairwise.nil, nofun, h.heldAreAudio,
    List.mem_head?_append_of_mem_head? h.outBegins⟩

end Inv

/-! ### The invariant over operations and steps -/

theorem exec_keeps_inv {i : Instr} {s t : State} (h : Inv s) (ht : exec i s = .next t) : Inv t := by
  apply exec_next_cases ht
  case tr => exact fun l _ => (h.driveTrigger l).withResult _
  case ac => exact fun b _ => (h.writeLatch _).withResult _
  case at' => exact fun l _ => (h.writeLatch _).withResult _
  case ar => exact fun l _ => (h.driveReset _).withResult _
  case hl =>
    rintro - (rfl | ⟨l, rfl⟩)
    · exact h.withHeld _ _ (h.held_append rfl)
    · exact h.withHeld _ _ (h.held_append rfl)
  case rl => exact fun _ _ => h.observeLatch.withResult _
  case irq => exact fun ha l _ => (h.driveIrq l ha).withResult _
  case t1 => exact fun g _ hg => (h.tighten (Nat.pos_of_ne_zero hg)).withResult _
  case ad => exact fun dt _ => (h.advance _).withResult _
  case rs => exact fun _ => h.sessionReset.withResult _
  all_goals
    intros
    exact ⟨h.haltedIffAsserted, h.irqLowInReset, h.windowsOrdered, h.windowsLive, h.heldAreAudio, h.outBegins⟩

/-- Settles O56: a step changes inputs, held operations and the last result in ways that `Inv` allows, and performs at most one
operation, which keeps `Inv`. -/
theorem everyStepKeepsTheInvariant : Obligations.EveryStepKeepsTheInvariant := by
  intro s t h hs
  rcases step_cases hs with rfl | ⟨rest, rfl⟩ | ⟨rest, rfl⟩ | ⟨i, rest, audio, rfl⟩ | ⟨i, rest, hs, held, ht⟩ | ⟨i, rest, ht⟩
  · exact h
  · exact h.withHeld rest _ h.heldAreAudio
  · exact h.withHeld rest _ h.heldAreAudio
  · exact h.withHeld rest _ (h.held_append audio)
  · have tailAudio : ∀ j ∈ hs, j.issuer = .audio := fun j hj => h.heldAreAudio j (held ▸ List.mem_cons_of_mem i hj)
    exact exec_keeps_inv (h.withHeld rest _ tailAudio) ht
  · exact exec_keeps_inv (h.withHeld rest _ h.heldAreAudio) ht

theorem powerOn_inv (p : Setup) : Inv (State.powerOn p) :=
  ⟨⟨fun _ => rfl, fun _ => rfl⟩, fun _ => rfl, List.Pairwise.nil, nofun, nofun, rfl⟩

/-- Settles O55: at power-on the line is asserted, the element halted, and no window or held operation is there. -/
theorem resetMeetsTheInvariant : Obligations.ResetMeetsTheInvariant := ⟨powerOn_inv _, powerOn_inv⟩

/-- A step only changes the inputs, the held operations and the last result, or performs one operation after changing inputs and held
operations. -/
theorem step_performs_at_most_one {s t : State} (h : step s = .next t) : ∃ rest held,
    (∃ v, t = { s with inbox := rest, held := held, result := v }) ∨
    ∃ i, exec i { s with inbox := rest, held := held } = .next t := by
  rcases step_cases h with rfl | ⟨rest, rfl⟩ | ⟨rest, rfl⟩ | ⟨i, rest, -, rfl⟩ | ⟨i, rest, hs, -, ht⟩ | ⟨i, rest, ht⟩
  · exact ⟨_, _, .inl ⟨_, rfl⟩⟩
  · exact ⟨rest, _, .inl ⟨_, rfl⟩⟩
  · exact ⟨rest, _, .inl ⟨_, rfl⟩⟩
  · exact ⟨rest, _, .inl ⟨_, rfl⟩⟩
  · exact ⟨rest, hs, .inr ⟨i, ht⟩⟩
  · exact ⟨rest, s.held, .inr ⟨i, ht⟩⟩

/-! ### The parameters and the pins (R29, R36) -/

theorem exec_setup {i : Instr} {s t : State} (h : exec i s = .next t) : t.setup = s.setup := by
  apply exec_next_cases h (P := fun t => t.setup = s.setup)
  case tr => exact fun l _ => driveTrigger_setup l s
  case ar => exact fun l _ => driveReset_setup _ s
  case irq => exact fun _ l _ => driveIrq_setup l s
  all_goals
    intros
    rfl

theorem exec_pins {i : Instr} {s t : State} (h : exec i s = .next t) (ne : ∀ k v, i ≠ .sysSetin k v) : t.pins = s.pins := by
  apply exec_next_cases h (P := fun t => t.pins = s.pins)
  case tr => exact fun l _ => driveTrigger_pins l s
  case ar => exact fun l _ => driveReset_pins _ s
  case irq => exact fun _ l _ => driveIrq_pins l s
  case si => exact fun k v _ hi => absurd hi (ne k v)
  all_goals
    intros
    rfl

/-- Settles O51: a step performs at most one operation, and nothing else of it touches the parameters. -/
theorem parametersNeverChange : Obligations.ParametersNeverChange := by
  refine ⟨fun i s t h => ⟨exec_setup h, exec_pins h⟩, fun s t h => ?_⟩
  obtain ⟨rest, held, ⟨v, rfl⟩ | ⟨i, ht⟩⟩ := step_performs_at_most_one h
  · rfl
  · exact (exec_setup ht).trans rfl

/-! ### The events (R44) -/

/-- Settles O53: an operation appends its events, and a step performs at most one. -/
theorem eventsAreOnlyAppended : Obligations.EventsAreOnlyAppended := by
  intro s t h
  obtain ⟨rest, held, ⟨v, rfl⟩ | ⟨i, ht⟩⟩ := step_performs_at_most_one h
  · exact ⟨[], (List.append_nil _).symm⟩
  · exact ⟨_, (exec_out ht).trans rfl⟩

/-! ### The owners of the elements (R20) -/

section
variable {i : Instr} {s t : State} (h : exec i s = .next t) (sys : i.unitFn.1 ≠ 4#4)
include h sys

theorem exec_psel_of_unit (psel : i.unitFn.1 ≠ 0#4) : t.psel = s.psel := by
  rcases exec_psel_cases h with same | ⟨k, rfl, -⟩ | ⟨rfl, -⟩ | ⟨i0, i1, i2, i3, i4, i5, rfl, -⟩
  · exact same
  · exact absurd rfl psel
  · exact absurd rfl sys
  · exact absurd rfl sys

theorem exec_video_of_unit (vid : i.unitFn.1 ≠ 1#4) : t.vx = s.vx ∧ t.vy = s.vy ∧ t.vcmd = s.vcmd ∧ t.vdata = s.vdata ∧
    t.vprev = s.vprev ∧ t.vtrig = s.vtrig := by
  apply exec_next_cases h
  case wd | wc | tr =>
    intros
    subst i
    exact absurd rfl vid
  case rs | re =>
    intros
    subst i
    exact absurd rfl sys
  case ar => simp
  case irq => simp
  all_goals
    intros
    exact ⟨rfl, rfl, rfl, rfl, rfl, rfl⟩

theorem exec_audio_of_unit (aud : i.unitFn.1 ≠ 2#4) :
    t.alatch = s.alatch ∧ t.areset = s.areset ∧ t.airq = s.airq ∧ t.astate = s.astate := by
  apply exec_next_cases h
  case ac | at' | ar | rl | irq =>
    intros
    subst i
    exact absurd rfl aud
  case rs =>
    intros
    subst i
    exact absurd rfl sys
  case tr => simp
  all_goals
    intros
    exact ⟨rfl, rfl, rfl, rfl⟩

theorem exec_time_of_unit (syn : i.unitFn.1 ≠ 3#4) : t.now = s.now ∧ t.drift = s.drift := by
  apply exec_next_cases h
  case ad =>
    intros
    subst i
    exact absurd rfl syn
  case rs =>
    intros
    subst i
    exact absurd rfl sys
  case tr => simp
  case ar => simp
  case irq => simp
  all_goals
    intros
    exact ⟨rfl, rfl⟩

/-- Both the release and the rise of the audio unit request tightening. -/
theorem exec_windows_of_unit (syn : i.unitFn.1 ≠ 3#4) (aud : i.unitFn.1 ≠ 2#4) : t.windows = s.windows := by
  apply exec_next_cases h (P := fun t => t.windows = s.windows)
  case t1 | ad =>
    intros
    subst i
    exact absurd rfl syn
  case ar | irq =>
    intros
    subst i
    exact absurd rfl aud
  case rs =>
    intros
    subst i
    exact absurd rfl sys
  case tr => exact fun l _ => driveTrigger_windows l s
  all_goals
    intros
    rfl

end

/-- Settles O52: one lemma per group of elements. -/
theorem eachElementIsWrittenByItsOwner : Obligations.EachElementIsWrittenByItsOwner :=
  fun _ _ _ h sys => ⟨exec_psel_of_unit h sys, exec_video_of_unit h sys, exec_audio_of_unit h sys, fun syn =>
    ⟨(exec_time_of_unit h sys syn).1, (exec_time_of_unit h sys syn).2, exec_windows_of_unit h sys syn⟩⟩

end Sys2Proof.Machine
end

section
/-! PROOFS. Sequences of operations and the video channel (41_video_channel.md): when the trigger delivers, how often, and what. -/

namespace Sys2Proof.Machine

/-! ### Sequences (R70) -/

theorem runOperations_of_exec {i : Instr} {is : List Instr} {s t : State} (h : exec i s = .next t) :
    runOperations (i :: is) s = runOperations is t := by
  rw [runOperations, h]

theorem runOperations_cons {i : Instr} {is : List Instr} {s t u : State} (h : exec i s = .next t)
    (hs : runOperations is t = .next u) : runOperations (i :: is) s = .next u :=
  (runOperations_of_exec h).trans hs

/-- A performed sequence performed its first operation and then the rest. -/
theorem runOperations_cons_eq_next {i : Instr} {is : List Instr} {s u : State} (h : runOperations (i :: is) s = .next u) :
    ∃ t, exec i s = .next t ∧ runOperations is t = .next u := by
  cases ht : exec i s with
  | next t => exact ⟨t, rfl, runOperations_of_exec ht ▸ h⟩
  | fault f => exact nomatch f
  | refused r =>
    rw [runOperations, ht] at h
    cases h

/-- Repeating an operation that completes and keeps a property leaves that property to what follows. -/
theorem runOperations_replicate {i : Instr} {P : State → Prop} (keeps : ∀ s, P s → ∃ t, exec i s = .next t ∧ P t)
    (is : List Instr) : ∀ (n : Nat) {s : State}, P s →
    ∃ t, P t ∧ runOperations (List.replicate n i ++ is) s = runOperations is t
  | 0, s, hs => ⟨s, hs, rfl⟩
  | n + 1, s, hs => by
    obtain ⟨u, hu, keptU⟩ := keeps s hs
    obtain ⟨t, keptT, ht⟩ := runOperations_replicate keeps is n keptU
    exact ⟨t, keptT, (runOperations_of_exec hu).trans ht⟩

/-! ### VID.WCMD and VID.ESTATE (R131, R136) -/

/-- Settles O23: the word by `encode_of_byte_operand` at unit 1, function 1, the next state by `exec_vidWcmd`. -/
theorem writeCommandWritesTheCommandLatchOnly : Obligations.WriteCommandWritesTheCommandLatchOnly :=
  fun byte s => ⟨rfl, encode_of_byte_operand rfl (by decide) rfl, exec_vidWcmd byte s⟩

/-- The five bytes of the engine's view. -/
theorem engineView_bytes (s : State) :
    (engineView s).extractLsb' 32 8 = s.vx ∧ (engineView s).extractLsb' 24 8 = s.vy ∧
    (engineView s).extractLsb' 16 8 = s.vcmd ∧ (engineView s).extractLsb' 8 8 = s.vdata ∧
    (engineView s).extractLsb' 0 8 = s.vprev := by
  have up {a : Nat} (start : Nat) (x : BitVec a) (y : Byte) (h : 8 ≤ start) := extractLsb'_append_of_ge (len := 8) x y h
  refine ⟨?_, ?_, ?_, ?_, ?_⟩
  · exact (up 32 _ _ (by decide)).trans ((up 24 _ _ (by decide)).trans ((up 16 _ _ (by decide)).trans
      (extractLsb'_append_high s.vx s.vy)))
  · exact (up 24 _ _ (by decide)).trans ((up 16 _ _ (by decide)).trans ((up 8 _ _ (by decide)).trans
      (extractLsb'_append_low s.vx s.vy)))
  · exact (up 16 _ _ (by decide)).trans ((up 8 _ _ (by decide)).trans (extractLsb'_append_low (s.vx ++ s.vy) s.vcmd))
  · exact (up 8 _ _ (by decide)).trans (extractLsb'_append_low (s.vx ++ s.vy ++ s.vcmd) s.vdata)
  · exact extractLsb'_append_low (s.vx ++ s.vy ++ s.vcmd ++ s.vdata) s.vprev

/-- Settles O25: the value is the engine's view. -/
theorem engineReadReturnsTheFiveFields : Obligations.EngineReadReturnsTheFiveFields :=
  fun s => ⟨engineView s, exec_vidEstate s, engineView_bytes s⟩

/-! ### VID.TRIG (R132 to R135) -/

theorem exec_vidTrig_active {s : State} {l : Level} (h : isActiveEdge s l = true) :
    exec (.vidTrig l) s = .next { deliver { s with vtrig := l } with result := .none } := by
  rw [exec_vidTrig, driveTrigger, if_pos h]

theorem exec_vidTrig_inactive {s : State} {l : Level} (h : ¬isActiveEdge s l = true) :
    exec (.vidTrig l) s = .next { s with vtrig := l, result := .none } := by
  rw [exec_vidTrig, driveTrigger, if_neg h]

/-- Settles O24: the two clauses are the two cases of `isActiveEdge_iff`. -/
theorem triggerDeliversOnTheActiveEdge : Obligations.TriggerDeliversOnTheActiveEdge :=
  fun level s => ⟨fun h => exec_vidTrig_active ((isActiveEdge_iff s level).mpr h),
    fun h => exec_vidTrig_inactive (mt (isActiveEdge_iff s level).mp h)⟩

theorem isActiveEdge_iff_activeLevel (s : State) (l : Level) :
    isActiveEdge s l = true ↔ s.vtrig ≠ l ∧ l = activeLevel s.setup := by
  simp [isActiveEdge_eq_makesActiveEdge, makesActiveEdge]

/-! ### Exactly-once delivery (R137) -/

theorem appendedEvents_draws (i : Instr) (s : State) :
    ((appendedEvents s i).filter isDraw).length = (makesActiveEdge i s).toNat := by
  cases i with
  | vidTrig l =>
    rw [← isActiveEdge_eq_makesActiveEdge, appendedEvents]
    cases isActiveEdge s l <;> rfl
  | audReset l => rw [appendedEvents]; split <;> rfl
  | audIrq l => rw [appendedEvents]; split <;> rfl
  | synTighten g => rw [appendedEvents]; split <;> rfl
  | pselSelect | pselRead | vidWdata | vidWcmd | vidEstate | audWcmd | audWtrig | audRlatch | synAdvance | synGran | sysReset
  | sysSave | sysRestore | sysSetin => rfl

theorem exec_drawCount {i : Instr} {s t : State} (h : exec i s = .next t) :
    drawCount t = drawCount s + (makesActiveEdge i s).toNat := by
  rw [drawCount, exec_out h, List.filter_append, List.length_append, appendedEvents_draws, drawCount]

theorem runOperations_drawCount : ∀ {is : List Instr} {s t : State}, runOperations is s = .next t →
    drawCount t = drawCount s + activeEdges is s
  | [], s, t, h => by cases h; rfl
  | i :: is, s, t, h => by
    obtain ⟨u, hu, ht⟩ := runOperations_cons_eq_next h
    rw [runOperations_drawCount ht, exec_drawCount hu, activeEdges, hu, Nat.add_assoc]

/-- Settles O26: each operation appends as many deliveries as it makes active edges, by induction on the sequence. -/
theorem deliveriesEqualActiveEdges : Obligations.DeliveriesEqualActiveEdges := fun _ _ _ => runOperations_drawCount

theorem exec_vtrig_cases {i : Instr} {s t : State} (h : exec i s = .next t) :
    t.vtrig = s.vtrig ∨ (∃ l, i = .vidTrig l ∧ t.vtrig = l) ∨ i = .sysReset := by
  apply exec_next_cases h
  case tr => exact fun l hi => .inr (.inl ⟨l, hi, driveTrigger_vtrig l s⟩)
  case rs => exact fun hi => .inr (.inr hi)
  case ar => simp
  case irq => simp
  all_goals
    intros
    exact .inl rfl

/-- At the active level, an operation other than a VID.TRIG to the other level and SYS.RESET delivers nothing and leaves the line. -/
theorem exec_at_activeLevel {i : Instr} {s t : State} (level : s.vtrig = activeLevel s.setup) (reset : i ≠ .sysReset)
    (opposite : i ≠ .vidTrig (!activeLevel s.setup)) (h : exec i s = .next t) :
    drawCount t = drawCount s ∧ t.vtrig = s.vtrig := by
  have same : ∀ l, i = .vidTrig l → l = s.vtrig := by
    rintro l rfl
    by_contra ne
    exact opposite (by rw [← level, Bool.eq_not.mpr ne])
  constructor
  · have inactive : makesActiveEdge i s = false := by
      cases i with
      | vidTrig l => simp [makesActiveEdge, same l rfl]
      | _ => rfl
    rw [exec_drawCount h, inactive]
    rfl
  · rcases exec_vtrig_cases h with stays | ⟨l, hi, ht⟩ | hi
    · exact stays
    · rw [ht, same l hi]
    · exact absurd hi reset

/-- Settles O27: the line stays at the active level, so no operation of the sequence delivers. -/
theorem noDeliveryWithoutTheOppositeEdgeFirst : Obligations.NoDeliveryWithoutTheOppositeEdgeFirst := by
  intro is
  induction is with
  | nil =>
    intro s t _ _ h
    cases h
    exact ⟨rfl, rfl⟩
  | cons i is ih =>
    intro s t level allowed h
    obtain ⟨u, hu, ht⟩ := runOperations_cons_eq_next h
    obtain ⟨⟨reset, opposite⟩, allowedRest⟩ := List.forall_mem_cons.mp allowed
    obtain ⟨drawsU, lineU⟩ := exec_at_activeLevel level reset opposite hu
    have setupU := exec_setup hu
    obtain ⟨drawsT, lineT⟩ := ih u t (by rw [lineU, setupU, level]) (by rwa [setupU]) ht
    exact ⟨drawsT.trans drawsU, lineT.trans lineU⟩

/-! ### The two writes and the pulse (R138, R104) -/

/-- Settles O28: the writes are to different fields, and the edge after them delivers. -/
theorem dataAndCommandWritesMayComeInEitherOrder : Obligations.DataAndCommandWritesMayComeInEitherOrder := by
  refine fun c d s => ⟨rfl, fun inactive => ?_⟩
  have active : isActiveEdge { s with vdata := d, vcmd := c, result := .none } (activeLevel s.setup) = true :=
    (isActiveEdge_iff_activeLevel _ _).mpr ⟨inactive, rfl⟩
  exact ⟨_, runOperations_cons (exec_vidWdata d s) (runOperations_cons (exec_vidWcmd c _)
    (runOperations_cons (exec_vidTrig_active active) rfl)), rfl⟩

theorem vidPulse_eq (p : Setup) : vidPulse p = [.vidTrig (!activeLevel p), .vidTrig (activeLevel p)] := by
  unfold vidPulse activeLevel
  cases p.vtrigEdge <;> rfl

/-- Settles O29: the pulse first takes the line off the active level, which delivers nothing, so its second edge delivers. -/
theorem sendDeliversItsPairExactlyOnce : Obligations.SendDeliversItsPairExactlyOnce := by
  intro c d s
  have off : ¬isActiveEdge { s with vcmd := c, vdata := d, result := .none } (!activeLevel s.setup) = true := by
    simp [isActiveEdge_iff_activeLevel]
  have on : isActiveEdge { s with vcmd := c, vdata := d, vtrig := !activeLevel s.setup, result := .none }
      (activeLevel s.setup) = true := by
    simp [isActiveEdge_iff_activeLevel]
  rw [vidSend, vidPulse_eq]
  exact ⟨_, runOperations_cons (exec_vidWcmd c s) (runOperations_cons (exec_vidWdata d _)
    (runOperations_cons (exec_vidTrig_inactive off) (runOperations_cons (exec_vidTrig_active on) rfl))), rfl, rfl, rfl⟩

end Sys2Proof.Machine
end

section
/-! PROOFS. The audio channel (42_audio_channel.md): the latch writes, the reset line, the interrupt line and the handshake. -/

namespace Sys2Proof.Machine

/-! ### The latch bit by bit (R13, R95) -/

theorem merge_getLsbD (old new mask : Byte) (i : Nat) :
    (merge old new mask).getLsbD i = if mask.getLsbD i then new.getLsbD i else old.getLsbD i := by
  by_cases hi : i < 8
  · simp only [merge, BitVec.getLsbD_or, BitVec.getLsbD_and, BitVec.getLsbD_not, hi, decide_true, Bool.true_and]
    cases mask.getLsbD i <;> simp
  · simp [BitVec.getLsbD_of_ge _ i (Nat.not_lt.mp hi)]

theorem commandMask_getLsbD {i : Nat} (hi : i < 8) : (0x7F#8).getLsbD i = decide (i < 7) := by
  interval_cases i <;> rfl

theorem latchWithCommand_getLsbD (latch byte : Byte) {i : Nat} (hi : i < 8) :
    (latchWithCommand latch byte).getLsbD i = if i < 7 then byte.getLsbD i else latch.getLsbD i := by
  rw [latchWithCommand, merge_getLsbD, commandMask_getLsbD hi]
  simp only [decide_eq_true_eq]

theorem latchWithTrigger_getLsbD (latch : Byte) (l : Level) {i : Nat} (hi : i < 8) :
    (latchWithTrigger latch l).getLsbD i = if i = 7 then l else latch.getLsbD i := by
  have mask : (0x80#8).getLsbD i = decide (i = 7) := by interval_cases i <;> rfl
  rw [latchWithTrigger, merge_getLsbD, mask]
  simp only [decide_eq_true_eq]
  split
  · subst i
    cases l <;> rfl
  · rfl

@[simp] theorem latchCommand_latchWithCommand (latch byte : Byte) :
    latchCommand (latchWithCommand latch byte) = byte.extractLsb' 0 7 := by
  apply BitVec.eq_of_getLsbD_eq
  intro i hi
  simp [latchCommand, latchWithCommand_getLsbD latch byte (Nat.lt_succ_of_lt hi), hi]

/-- Bit 7 of the operand of a command write is discarded (R95). -/
theorem latchWithCommand_and (latch byte : Byte) : latchWithCommand latch (byte &&& 0x7F#8) = latchWithCommand latch byte := by
  apply BitVec.eq_of_getLsbD_eq
  intro i hi
  rw [latchWithCommand_getLsbD _ _ hi, latchWithCommand_getLsbD _ _ hi, BitVec.getLsbD_and, commandMask_getLsbD hi]
  split
  · rename_i low
    rw [decide_eq_true low, Bool.and_true]
  · rfl

/-- The latch that a command and a level make: the level in bit 7, the command below it. -/
theorem commandOrTrigger_getLsbD (c : Byte) (l : Level) {i : Nat} (hi : i < 8) :
    ((c &&& 0x7F#8) ||| (levelBits 8 l <<< 7)).getLsbD i = if i = 7 then l else c.getLsbD i := by
  interval_cases i <;> cases l <;> simp [levelBits]

theorem latchWithTrigger_latchWithCommand (latch c : Byte) (l : Level) :
    latchWithTrigger (latchWithCommand latch c) l = (c &&& 0x7F#8) ||| (levelBits 8 l <<< 7) := by
  apply BitVec.eq_of_getLsbD_eq
  intro i hi
  rw [latchWithTrigger_getLsbD _ _ hi, commandOrTrigger_getLsbD c l hi]
  split
  · rfl
  · rw [latchWithCommand_getLsbD _ _ hi, if_pos (by omega)]

theorem latchWithCommand_latchWithTrigger (latch c : Byte) (l : Level) :
    latchWithCommand (latchWithTrigger latch l) c = (c &&& 0x7F#8) ||| (levelBits 8 l <<< 7) := by
  apply BitVec.eq_of_getLsbD_eq
  intro i hi
  rw [latchWithCommand_getLsbD _ _ hi, commandOrTrigger_getLsbD c l hi]
  by_cases low : i < 7
  · rw [if_pos low, if_neg (by omega)]
  · rw [if_neg low, latchWithTrigger_getLsbD _ _ hi]
    have top : i = 7 := by omega
    rw [if_pos top, if_pos top]

/-! ### AUD.WCMD and AUD.WTRIG (R150 to R153) -/

theorem writeLatch_moves {new : Byte} {s : State} (h : s.astate = .idle ∧ new ≠ s.alatch) :
    (writeLatch new s).astate = .awaitingAck := if_pos h

theorem writeLatch_stays {new : Byte} {s : State} (h : ¬(s.astate = .idle ∧ new ≠ s.alatch)) :
    (writeLatch new s).astate = s.astate := if_neg h

/-- Settles O30: the write is `writeLatch`, which keeps everything but the latch and the handshake. -/
theorem commandWriteKeepsTheTriggerFlag : Obligations.CommandWriteKeepsTheTriggerFlag :=
  fun byte s => ⟨_, exec_audWcmd byte s, rfl, latchCommand_latchWithCommand _ _, latchTrigger_latchWithCommand _ _,
    writeLatch_moves, writeLatch_stays⟩

/-- Settles O31: the same write with the other part of the latch. -/
theorem triggerWriteKeepsTheCommand : Obligations.TriggerWriteKeepsTheCommand :=
  fun level s => ⟨_, exec_audWtrig level s, rfl, latchTrigger_latchWithTrigger _ _, latchCommand_latchWithTrigger _ _,
    writeLatch_moves, writeLatch_stays⟩

theorem exec_audRlatch_alatch (s : State) : ∃ t, exec .audRlatch s = .next t ∧ t.alatch = s.alatch := by
  rcases s.areset.asserted_or_released with ha | ha
  · exact ⟨_, exec_audRlatch_held ha, rfl⟩
  · exact ⟨_, exec_audRlatch_released ha, rfl⟩

/-- Any number of reads, held or not, leaves the latch to what follows. -/
theorem runOperations_audRlatch (is : List Instr) (n : Nat) (s : State) :
    ∃ t, t.alatch = s.alatch ∧ runOperations (List.replicate n .audRlatch ++ is) s = runOperations is t :=
  runOperations_replicate (fun u hu => (exec_audRlatch_alatch u).imp fun _ ⟨ht, latch⟩ => ⟨ht, latch.trans hu⟩) is n rfl

/-- Settles O32: the reads between leave the latch, and the two writes are of disjoint bits. -/
theorem partialLatchWritesAreDisjoint : Obligations.PartialLatchWritesAreDisjoint := by
  refine fun c l n s => ⟨?_, ?_, ?_⟩
  · obtain ⟨u, latchU, hu⟩ := runOperations_audRlatch [.audWtrig l] n
      { writeLatch (latchWithCommand s.alatch c) s with result := .none }
    refine ⟨_, (runOperations_of_exec (exec_audWcmd c s)).trans (hu.trans (runOperations_cons (exec_audWtrig l u) rfl)), ?_⟩
    simp only [writeLatch_alatch, latchU]
    exact ⟨latchWithTrigger_latchWithCommand _ _ _, latchTrigger_latchWithTrigger _ _, by
      rw [latchCommand_latchWithTrigger, latchCommand_latchWithCommand]⟩
  · obtain ⟨u, latchU, hu⟩ := runOperations_audRlatch [.audWcmd c] n
      { writeLatch (latchWithTrigger s.alatch l) s with result := .none }
    refine ⟨_, (runOperations_of_exec (exec_audWtrig l s)).trans (hu.trans (runOperations_cons (exec_audWcmd c u) rfl)), ?_⟩
    simp only [writeLatch_alatch, latchU]
    exact latchWithCommand_latchWithTrigger _ _ _
  · rw [exec_audWcmd, exec_audWcmd, latchWithCommand_and]

/-! ### AUD.RESET (R156) -/

theorem ResetLine.released_iff {r : ResetLine} : r = .released ↔ ¬r = .asserted := by cases r <;> simp

theorem resetLineOf_run {p : Setup} {l : Level} (h : l = p.aresetRunLevel) : resetLineOf p l = .released := if_pos h

theorem resetLineOf_halt {p : Setup} {l : Level} (h : l ≠ p.aresetRunLevel) : resetLineOf p l = .asserted := if_neg h

theorem driveReset_assert {s : State} (ha : s.areset = .released) : driveReset .asserted s = assertReset s := by
  simp only [driveReset, ha]

theorem driveReset_release {s : State} (ha : s.areset = .asserted) : driveReset .released s = releaseReset s := by
  simp only [driveReset, ha]

theorem driveReset_same (s : State) : driveReset s.areset s = s := by
  cases ha : s.areset <;> simp only [driveReset, ha]

theorem exec_audReset_assert {s : State} {l : Level} (ha : s.areset = .released) (hl : l ≠ s.setup.aresetRunLevel) :
    exec (.audReset l) s = .next { assertReset s with result := .none } := by
  rw [exec_audReset, resetLineOf_halt hl, driveReset_assert ha]

theorem exec_audReset_release {s : State} {l : Level} (ha : s.areset = .asserted) (hl : l = s.setup.aresetRunLevel) :
    exec (.audReset l) s = .next { releaseReset s with result := .none } := by
  rw [exec_audReset, resetLineOf_run hl, driveReset_release ha]

/-- A repeat of the level in force does nothing. -/
theorem exec_audReset_same {s : State} {l : Level} (h : l = s.setup.aresetRunLevel ↔ s.areset = .released) :
    exec (.audReset l) s = .next { s with result := .none } := by
  have same : resetLineOf s.setup l = s.areset := by
    rcases s.areset.asserted_or_released with ha | ha
    · rw [ha, resetLineOf_halt]
      exact fun run => nomatch ha.symm.trans (h.mp run)
    · rw [ha, resetLineOf_run (h.mpr ha)]
  rw [exec_audReset, same, driveReset_same]

/-- Settles O34: assert, release and the repeated level are the cases of `driveReset`. -/
theorem resetLineActsOnTransitionsOnly : Obligations.ResetLineActsOnTransitionsOnly := by
  refine fun level s => ⟨fun ⟨ha, hl⟩ => exec_audReset_assert ha hl, fun ⟨ha, hl⟩ => ?_, fun ⟨noAssert, noRelease⟩ => ?_⟩
  · refine ⟨_, exec_audReset_release ha hl, ?_, insertTightening_perm _ _⟩
    simp only [releaseReset, tighten, emit, List.append_assoc]
    rfl
  · exact exec_audReset_same ⟨fun run => ResetLine.released_iff.mpr fun ha => noRelease ⟨ha, run⟩,
      fun ha => by_contra fun halt => noAssert ⟨ha, halt⟩⟩

/-! ### AUD.RLATCH (R158) -/

theorem observeLatch_moves {s : State} (h : s.astate = .awaitingAck) : (observeLatch s).astate = .idle := if_pos h

theorem observeLatch_stays {s : State} (h : s.astate ≠ .awaitingAck) : (observeLatch s).astate = s.astate := if_neg h

/-- Settles O35: `observeLatch` moves AwaitingAck to Idle and nothing else. -/
theorem audioReadReturnsTheLatch : Obligations.AudioReadReturnsTheLatch := by
  refine fun s ha => ⟨fun awaiting => ?_, fun other => ?_⟩
  · rw [exec_audRlatch_released ha, observeLatch, if_pos awaiting]
  · rw [exec_audRlatch_released ha, observeLatch, if_neg other]

/-! ### AUD.IRQ (R160) -/

theorem driveIrq_rise {s : State} {l : Level} (h : s.airq = false ∧ l = true) :
    driveIrq l s = tighten qTight { s with airq := l } := if_pos (edge_eq_rising.mpr h)

theorem driveIrq_no_rise {s : State} {l : Level} (h : ¬(s.airq = false ∧ l = true)) : driveIrq l s = { s with airq := l } :=
  if_neg (mt edge_eq_rising.mp h)

/-- Settles O36: the rise and every other call are the cases of `driveIrq`. -/
theorem interruptLineFollowsTheAudioElement : Obligations.InterruptLineFollowsTheAudioElement := by
  refine fun level s ha => ⟨fun rise => ?_, fun noRise => ?_⟩
  · obtain rfl := rise.2
    exact ⟨_, (exec_audIrq_released true ha).trans (by rw [driveIrq_rise rise]), rfl, rfl, insertTightening_perm _ _⟩
  · exact ⟨_, (exec_audIrq_released level ha).trans (by rw [driveIrq_no_rise noRise]), rfl, rfl⟩

/-! ### What moves the interrupt (R227) -/

theorem exec_airq_cases {i : Instr} {s t : State} (h : exec i s = .next t) :
    t.airq = s.airq ∨ (∃ l, i = .audIrq l ∧ s.areset = .released ∧ t.airq = l) ∨ (i = .sysReset ∧ t.airq = false) ∨
    ∃ l, i = .audReset l ∧ s.areset = .released ∧ l ≠ s.setup.aresetRunLevel ∧ t.airq = false := by
  apply exec_next_cases h
  case irq => exact fun ha l hi => .inr (.inl ⟨l, hi, ha, driveIrq_airq l s⟩)
  case rs => exact fun hi => .inr (.inr (.inl ⟨hi, rfl⟩))
  case ar =>
    intro l hi
    rcases s.areset.asserted_or_released with ha | ha <;> by_cases hl : l = s.setup.aresetRunLevel
    · rw [resetLineOf_run hl, driveReset_release ha]
      exact .inl rfl
    · rw [resetLineOf_halt hl, ← ha, driveReset_same]
      exact .inl rfl
    · rw [resetLineOf_run hl, ← ha, driveReset_same]
      exact .inl rfl
    · rw [resetLineOf_halt hl, driveReset_assert ha]
      exact .inr (.inr (.inr ⟨l, hi, ha, hl, rfl⟩))
  case tr => exact fun l _ => .inl (driveTrigger_airq l s)
  all_goals
    intros
    exact .inl rfl

/-- Settles O37: what can move the line is in `exec_airq_cases`; that each of them lowers it is what it answers. -/
theorem interruptIsRaisedAndClearedOnlyAsStated : Obligations.InterruptIsRaisedAndClearedOnlyAsStated := by
  refine fun i s t h => ⟨rfl, fun ⟨low, high⟩ => ?_, fun ⟨high, low⟩ => ?_, ?_, ?_, ?_⟩
  · rcases exec_airq_cases h with same | ⟨l, rfl, ha, hl⟩ | ⟨-, lowered⟩ | ⟨-, -, -, -, lowered⟩
    · exact nomatch high.symm.trans (same.trans low)
    · obtain rfl : l = true := hl.symm.trans high
      refine ⟨rfl, ha, (exec_out h).trans ?_⟩
      rw [appendedEvents, if_pos ⟨rfl, ha, low⟩]
      rfl
    · exact nomatch high.symm.trans lowered
    · exact nomatch high.symm.trans lowered
  · rcases exec_airq_cases h with same | ⟨l, rfl, -, hl⟩ | ⟨hi, -⟩ | ⟨l, hi, ha, hl, -⟩
    · exact nomatch low.symm.trans (same.trans high)
    · exact .inl (congrArg Instr.audIrq (hl.symm.trans low))
    · exact .inr (.inl hi)
    · exact .inr (.inr ⟨l, hi, ha, hl⟩)
  · rintro rfl ha
    rw [exec_audIrq_released false ha] at h
    cases h
    exact driveIrq_airq false s
  · rintro rfl
    rw [exec_sysReset] at h
    cases h
    rfl
  · rintro l rfl ha hl
    rw [exec_audReset_assert ha hl] at h
    cases h
    rfl

/-! ### The transition table of the handshake (R162) -/

/-- An operation that is not in the table leaves the handshake. -/
theorem exec_astate_of_not_in_table {i : Instr} {s t : State} (h : exec i s = .next t) (notReset : ∀ l, i ≠ .audReset l)
    (notRead : i ≠ .audRlatch) (notCommand : ∀ b, i ≠ .audWcmd b) (notTrigger : ∀ l, i ≠ .audWtrig l) (notSysReset : i ≠ .sysReset) :
    t.astate = s.astate := by
  apply exec_next_cases h (P := fun t => t.astate = s.astate)
  case ac => exact fun b hi => absurd hi (notCommand b)
  case at' => exact fun l hi => absurd hi (notTrigger l)
  case ar => exact fun l hi => absurd hi (notReset l)
  case rl => exact fun _ hi => absurd hi notRead
  case rs => exact fun hi => absurd hi notSysReset
  case tr => exact fun l _ => driveTrigger_astate l s
  case irq => exact fun _ l _ => driveIrq_astate l s
  all_goals
    intros
    rfl

/-- Settles O38: row by row, each from what its operation answers in the states of the line that the row allows. -/
theorem handshakeFollowsItsTransitionTable : Obligations.HandshakeFollowsItsTransitionTable := by
  refine fun i s t inv h => ⟨?_, ?_, ?_, ?_, ?_, ?_⟩
  · rintro level rfl
    refine ⟨fun ⟨ha, hl⟩ => ?_, fun ⟨ha, hl⟩ => ?_, fun same => ?_⟩
    · rw [exec_audReset_assert ha hl] at h
      cases h
      rfl
    · rw [exec_audReset_release ha hl] at h
      cases h
      rfl
    · have released : level = s.setup.aresetRunLevel ↔ s.areset = .released := by
        rw [ResetLine.released_iff, same, not_not]
      rw [exec_audReset_same released] at h
      cases h
      rfl
  · rintro rfl
    rcases s.areset.asserted_or_released with ha | ha
    · rw [exec_audRlatch_held ha] at h
      cases h
      exact ⟨fun awaiting => absurd (awaiting.symm.trans (inv.mpr ha)) nofun, fun _ => rfl, fun _ => rfl⟩
    · rw [exec_audRlatch_released ha] at h
      cases h
      exact ⟨observeLatch_moves, observeLatch_stays, fun halted => absurd (ha.symm.trans (inv.mp halted)) nofun⟩
  · rintro (⟨b, rfl⟩ | ⟨l, rfl⟩)
    · rw [exec_audWcmd] at h
      cases h
      exact ⟨writeLatch_moves, writeLatch_stays⟩
    · rw [exec_audWtrig] at h
      cases h
      exact ⟨writeLatch_moves, writeLatch_stays⟩
  · rintro level rfl
    refine ⟨exec_astate_of_not_in_table h nofun nofun nofun nofun nofun, fun halted => ?_⟩
    rw [exec_audIrq_held level (inv.mp halted)] at h
    cases h
    rfl
  · rintro rfl
    rw [exec_sysReset] at h
    cases h
    rfl
  · rintro ⟨notReset, notRead, notCommand, notTrigger, notSysReset⟩
    exact exec_astate_of_not_in_table h notReset notRead notCommand notTrigger notSysReset

/-! ### The operands that do nothing (R99) -/

/-- Settles O16: no line moves to a new level, no code is mapped, and 0 is no request. -/
theorem ignoredOperandsChangeNothing : Obligations.IgnoredOperandsChangeNothing := by
  refine fun s => ⟨fun code hc => ?_, ?_, fun level same => exec_audReset_same same, fun ha => ?_, exec_synTighten_zero s rfl⟩
  · have unmapped : ∀ k, code ≠ selectCode k := by
      rintro k rfl
      exact hc (selectCode_mem_sixCodes k)
    exact exec_pselSelect_unmapped unmapped s
  · exact exec_vidTrig_inactive fun active => ((isActiveEdge_iff _ _).mp active).1 rfl
  · have noRise : ¬(s.airq = false ∧ s.airq = true) := by simp
    rw [exec_audIrq_released _ ha, driveIrq_no_rise noRise]

end Sys2Proof.Machine
end

section
/-! PROOFS. The Interleave Synchronizer (43_synchronizer.md): what a request adds, repeated and reordered requests, and the schedule
that never drifts. -/

namespace Sys2Proof.Machine

/-! ### SYN.TIGHTEN (R180, R181) -/

/-- Settles O39: `tighten` inserts one window into the list. -/
theorem tightenAddsOneWindow : Obligations.TightenAddsOneWindow :=
  fun _ s => ⟨exec_synTighten_zero s, fun hg => ⟨_, exec_synTighten_pos s hg, rfl, insertTightening_perm _ _⟩⟩

/-! ### SYN.ADVANCE (R186) -/

/-- Settles O41: what SYN.ADVANCE does is `advance`. -/
theorem advanceMovesTimeAndExpiresWindows : Obligations.AdvanceMovesTimeAndExpiresWindows := by
  refine fun dt s => ⟨_, exec_synAdvance dt s, rfl, rfl, ?_⟩
  rw [advance_drift, Bool.or_eq_true, decide_eq_true_eq]

/-! ### Repeated and reordered requests (R183) -/

/-- The windows after a request for `g` from a state: those of the state, and one more unless `g` is 0. -/
def windowsAfterRequest (g : Nat) (s : State) (ws : List Tightening) : List Tightening :=
  if g = 0 then ws else insertTightening ⟨g, s.now + wTighten s.setup⟩ ws

theorem exec_synTighten_timing {g : BitVec 48} {s t : State} (h : exec (.synTighten g) s = .next t) :
    t.windows = windowsAfterRequest g.toNat s s.windows ∧ t.now = s.now ∧ t.drift = s.drift ∧ t.setup = s.setup := by
  by_cases hg : g.toNat = 0
  · rw [exec_synTighten_zero s hg] at h
    cases h
    exact ⟨(if_pos hg).symm, rfl, rfl, rfl⟩
  · rw [exec_synTighten_pos s hg] at h
    cases h
    exact ⟨(if_neg hg).symm, rfl, rfl, rfl⟩

theorem windowsAfterRequest_comm (g g' : Nat) (s : State) (ws : List Tightening) :
    windowsAfterRequest g s (windowsAfterRequest g' s ws) = windowsAfterRequest g' s (windowsAfterRequest g s ws) := by
  unfold windowsAfterRequest
  by_cases hg : g = 0
  · simp only [if_pos hg]
  · by_cases hg' : g' = 0
    · simp only [if_pos hg']
    · simp only [if_neg hg, if_neg hg']
      exact insertTightening_comm _ _ ws

/-- A second equal request adds no window that is not there. -/
theorem mem_windowsAfterRequest_again {w : Tightening} (g : Nat) (s : State) (ws : List Tightening) :
    w ∈ windowsAfterRequest g s (windowsAfterRequest g s ws) ↔ w ∈ windowsAfterRequest g s ws := by
  unfold windowsAfterRequest
  by_cases hg : g = 0
  · simp only [if_pos hg]
  · simp only [if_neg hg, mem_insertTightening, or_self_left]

/-- Two requests made at the same time with the same parameters. -/
theorem windowsAfterRequest_congr {s t : State} (now : t.now = s.now) (setup : t.setup = s.setup) (g : Nat) (ws : List Tightening) :
    windowsAfterRequest g t ws = windowsAfterRequest g s ws := by
  rw [windowsAfterRequest, now, setup, windowsAfterRequest]

/-- Two states with the same time, drift and parameters whose windows have the same members, though perhaps not as often. -/
structure SameTiming (s u : State) : Prop where
  now     : s.now = u.now
  drift   : s.drift = u.drift
  setup   : s.setup = u.setup
  windows : ∀ w, w ∈ s.windows ↔ w ∈ u.windows

namespace SameTiming

variable {s u : State} (h : SameTiming s u)
include h

theorem gran : gran s = gran u := by
  unfold Machine.gran
  rw [h.now, h.setup]
  apply leastGran_congr
  intro w
  rw [List.mem_filter, List.mem_filter, h.windows w]

theorem advance (dt : Nat) (v : OpResult) :
    SameTiming { advance dt s with result := v } { advance dt u with result := v } where
  now := congrArg (· + dt) h.now
  drift := by
    show (s.drift || decide (Machine.gran s < dt)) = (u.drift || decide (Machine.gran u < dt))
    rw [h.drift, h.gran]
  setup := h.setup
  windows w := by
    show w ∈ s.windows.filter (inForce (s.now + dt)) ↔ w ∈ u.windows.filter (inForce (u.now + dt))
    rw [List.mem_filter, List.mem_filter, h.windows w, h.now]

end SameTiming

/-- From two such states, a granularity read after any bursts is the same, and so are the time and the drift. -/
theorem runOperations_bursts_gran : ∀ {bursts : List (BitVec 48)} {s u t v : State}, SameTiming s u →
    runOperations (bursts.map .synAdvance ++ [.synGran]) s = .next t →
    runOperations (bursts.map .synAdvance ++ [.synGran]) u = .next v →
    t.result = v.result ∧ t.drift = v.drift ∧ t.now = v.now
  | [], s, u, t, v, same, ht, hv => by
    cases ht
    cases hv
    exact ⟨congrArg OpResult.time same.gran, same.drift, same.now⟩
  | dt :: bursts, s, u, t, v, same, ht, hv =>
    runOperations_bursts_gran (same.advance dt.toNat .none)
      ((runOperations_of_exec (exec_synAdvance dt s)).symm.trans ht) ((runOperations_of_exec (exec_synAdvance dt u)).symm.trans hv)

/-- Settles O42: the second of two equal requests gives a state with the same timing, and windows are inserted in either order. -/
theorem duplicateRequestsAreHarmlessAndOrderFree : Obligations.DuplicateRequestsAreHarmlessAndOrderFree := by
  constructor
  · intro g bursts s t u ht hu
    obtain ⟨once, hOnce, ht⟩ := runOperations_cons_eq_next ht
    obtain ⟨first, hFirst, hu⟩ := runOperations_cons_eq_next hu
    obtain rfl : once = first := Host.Outcome.next.inj (hOnce.symm.trans hFirst)
    obtain ⟨twice, hTwice, hu⟩ := runOperations_cons_eq_next hu
    obtain ⟨windowsOnce, nowOnce, -, setupOnce⟩ := exec_synTighten_timing hOnce
    obtain ⟨windowsTwice, nowTwice, driftTwice, setupTwice⟩ := exec_synTighten_timing hTwice
    have same : SameTiming once twice := by
      refine ⟨nowTwice.symm, driftTwice.symm, setupTwice.symm, fun w => ?_⟩
      rw [windowsTwice, windowsAfterRequest_congr nowOnce setupOnce, windowsOnce, mem_windowsAfterRequest_again]
    exact runOperations_bursts_gran same ht hu
  · intro g g' s t u ht hu
    obtain ⟨s1, h1, ht⟩ := runOperations_cons_eq_next ht
    obtain ⟨s2, h2, ht⟩ := runOperations_cons_eq_next ht
    obtain ⟨u1, k1, hu⟩ := runOperations_cons_eq_next hu
    obtain ⟨u2, k2, hu⟩ := runOperations_cons_eq_next hu
    cases ht
    cases hu
    obtain ⟨windowsS1, nowS1, -, setupS1⟩ := exec_synTighten_timing h1
    obtain ⟨windowsU1, nowU1, -, setupU1⟩ := exec_synTighten_timing k1
    rw [(exec_synTighten_timing h2).1, (exec_synTighten_timing k2).1, windowsAfterRequest_congr nowS1 setupS1,
      windowsAfterRequest_congr nowU1 setupU1, windowsS1, windowsU1, windowsAfterRequest_comm]

/-! ### A faithful schedule (R187) -/

/-- A burst no longer than the granularity in force leaves DRIFT 0, and so does every other operation. -/
theorem exec_drift_of_faithful {i : Instr} {s t : State} (h : exec i s = .next t)
    (faithful : ∀ dt, i = .synAdvance dt → dt.toNat ≤ gran s) (zero : s.drift = false) : t.drift = false := by
  apply exec_next_cases h (P := fun t => t.drift = false)
  case ad =>
    intro dt hi
    simp only [advance_drift, zero, Bool.false_or, decide_eq_false_iff_not]
    exact Nat.not_lt.mpr (faithful dt hi)
  case rs => exact fun _ => rfl
  case tr => exact fun l _ => (driveTrigger_drift l s).trans zero
  case ar => exact fun l _ => (driveReset_drift _ s).trans zero
  case irq => exact fun _ l _ => (driveIrq_drift l s).trans zero
  all_goals
    intros
    exact zero

theorem runOperations_drift_of_faithful : ∀ {is : List Instr} {s t : State}, runOperations is s = .next t →
    faithfulSchedule is s → s.drift = false → t.drift = false
  | [], _, _, h, _, zero => by cases h; exact zero
  | i :: is, s, t, h, schedule, zero => by
    obtain ⟨u, hu, ht⟩ := runOperations_cons_eq_next h
    rw [faithfulSchedule, hu] at schedule
    obtain ⟨faithful, rest⟩ := schedule
    exact runOperations_drift_of_faithful ht rest (exec_drift_of_faithful hu faithful zero)

/-- Settles O44: `exec_drift_of_faithful` along the sequence. -/
theorem faithfulScheduleNeverDrifts : Obligations.FaithfulScheduleNeverDrifts := fun _ _ _ => runOperations_drift_of_faithful

end Sys2Proof.Machine
end

section
/-! PROOFS. The port selector over sequences (40_port_selector.md), the session operations (44_session.md) and the power-on state. -/

namespace Sys2Proof.Machine

/-! ### PSEL.READ (R121, R122, R206) -/

/-- Settles O19: the byte is the environment's choice for this read. -/
theorem readOfAnUndrivenGroupCompletes : Obligations.ReadOfAnUndrivenGroupCompletes := by
  intro s undriven
  have noData : portData s = none := undriven
  exact ⟨Config.freePin s.freeCount, by rw [exec_pselRead, noData]; rfl⟩

/-- Settles O20: the reads keep the selector and the pins, and the unmapped select keeps both. -/
theorem selectThenReadRoutesTheGroup : Obligations.SelectThenReadRoutesTheGroup := by
  intro s k c v n driven unmapped
  have keeps (s : State) (h : s.psel = k ∧ s.pins[k] = some v) :
      ∃ t, exec .pselRead s = .next t ∧ t.psel = k ∧ t.pins[k] = some v := ⟨_, exec_pselRead s, h⟩
  obtain ⟨u, ⟨pselU, drivenU⟩, hu⟩ := runOperations_replicate keeps [.pselSelect c, .pselRead] n
    (s := { s with psel := k, result := .none }) ⟨rfl, driven⟩
  have routed : portData { u with result := .none } = some v := by
    subst pselU
    exact drivenU
  refine ⟨_, (runOperations_of_exec (exec_pselSelect_selectCode k s)).trans (hu.trans
    (runOperations_cons (exec_pselSelect_unmapped unmapped u) (runOperations_cons (exec_pselRead_driven routed) rfl))), rfl, pselU⟩

/-! ### SYS.RESET (R46, R200, R201) -/

/-- Settles O46: what SYS.RESET does is `sessionReset`. -/
theorem sessionResetWritesTheResetValues : Obligations.SessionResetWritesTheResetValues := exec_sysReset

/-- Settles O1: at time 0 and with no events yet, the session reset writes the power-on state. -/
theorem powerOnStateHoldsTheResetValues : Obligations.PowerOnStateHoldsTheResetValues := by
  refine ⟨rfl, ?_, fun s now out => ?_⟩
  · rintro p s rfl
    have undriven (k : Index) : (State.powerOn p).pins[k] = none := Vector.getElem_replicate k.isLt
    exact ⟨rfl, rfl, rfl, rfl, rfl, rfl, rfl, rfl, rfl, rfl, rfl, rfl, rfl, rfl, rfl, undriven, rfl, gran_of_no_windows rfl, rfl,
      rfl, rfl⟩
  · rw [exec_sysReset, sessionReset, now, out]
    rfl

/-! ### SYS.RESTORE and SYS.SETIN (R204 to R206) -/

/-- Settles O48: an index at most 5 is that selector. -/
theorem restoreWritesTheSixFieldsOnly : Obligations.RestoreWritesTheSixFieldsOnly :=
  fun i0 i1 i2 i3 i4 i5 s h => ⟨⟨i0.toNat, Nat.lt_succ_of_le h⟩, rfl, exec_sysRestore_of_le i1 i2 i3 i4 i5 s rfl⟩

/-- Restoring an image of one state in another writes the six fields of the first. -/
theorem exec_restoreOf_saveImage (s s' : State) : exec (restoreOf (saveImage s)) s' = .next { s' with
    psel := s.psel, vx := s.vx, vy := s.vy, vcmd := s.vcmd, vdata := s.vdata, vprev := s.vprev, result := .none } := by
  obtain ⟨-, vx, vy, vcmd, vdata, vprev⟩ := saveImage_bytes s
  rw [restoreOf, exec_sysRestore_of_le _ _ _ _ _ _ (saveImage_selector s).symm, vx, vy, vcmd, vdata, vprev]

theorem wellFormed_restoreOf_saveImage (s : State) : (restoreOf (saveImage s)).wellFormed = true := by
  apply decide_eq_true
  rw [saveImage_selector]
  exact Nat.le_of_lt_succ s.psel.isLt

/-- Settles O49: the six fields are those of the state that was saved, and the image and the view are functions of them. -/
theorem saveThenRestoreGivesBackTheSession : Obligations.SaveThenRestoreGivesBackTheSession := by
  intro s s' t m ht hm
  rw [exec_sysSave] at ht
  cases ht
  cases hm
  exact ⟨_, exec_restoreOf_saveImage s s', wellFormed_restoreOf_saveImage s, ⟨_, exec_sysSave _, rfl⟩, rfl,
    ⟨_, _, _, exec_vidEstate s, exec_vidEstate _, rfl, rfl⟩⟩

/-- Settles O50: the index of the group is the operand's, and setting one pin keeps the others. -/
theorem setinDrivesOneGroup : Obligations.SetinDrivesOneGroup := by
  intro k v s hk
  obtain ⟨m, hm⟩ : ∃ m : Index, m.val = k.toNat := ⟨⟨k.toNat, Nat.lt_succ_of_le hk⟩, rfl⟩
  refine ⟨_, exec_sysSetin_of_le v s hm, rfl, fun j => ⟨fun same => ?_, fun other => ?_⟩⟩
  · obtain rfl : m = j := Fin.ext (hm.trans same.symm)
    exact Vector.getElem_set_self _
  · exact Vector.getElem_set_ne m.isLt j.isLt (fun same => other (same.symm.trans hm))

end Sys2Proof.Machine
end

section
/-! PROOFS. Lines of text (30_encoding.md R103, R104): every operation that a reader gives is well formed. -/

namespace Sys2Proof.Machine

/-! ### What a reader of operands can give -/

/-- Whatever operands it reads, a reader gives only well-formed operations. -/
def GivesWellFormed (reader : List (List Char) → Option (List Instr)) : Prop :=
  ∀ operands is, reader operands = some is → ∀ i ∈ is, i.wellFormed = true

theorem parseIndex_le {cs : List Char} {n : Nat} (h : parseIndex cs = some n) : n ≤ 5 := by
  rw [parseIndex, Option.filter_eq_some_iff] at h
  exact of_decide_eq_true h.2

theorem readN_givesWellFormed {is : List Instr} (wf : ∀ i ∈ is, i.wellFormed = true) : GivesWellFormed (readN is) := by
  intro operands js h
  unfold readN at h
  split at h <;> cases h
  exact wf

theorem readB_givesWellFormed {f : Byte → List Instr} (wf : ∀ b, ∀ i ∈ f b, i.wellFormed = true) : GivesWellFormed (readB f) := by
  intro operands js h
  unfold readB at h
  split at h
  · obtain ⟨b, -, rfl⟩ := Option.map_eq_some_iff.mp h
    exact wf b
  · cases h

theorem readBB_givesWellFormed {f : Byte → Byte → List Instr} (wf : ∀ b c, ∀ i ∈ f b c, i.wellFormed = true) :
    GivesWellFormed (readBB f) := by
  intro operands js h
  unfold readBB at h
  split at h
  · split at h <;> cases h
    exact wf _ _
  · cases h

theorem readL_givesWellFormed {f : Level → Instr} (wf : ∀ l, (f l).wellFormed = true) : GivesWellFormed (readL f) := by
  intro operands js h
  unfold readL at h
  split at h
  · obtain ⟨l, -, rfl⟩ := Option.map_eq_some_iff.mp h
    exact List.forall_mem_singleton.mpr (wf l)
  · cases h

theorem readT_givesWellFormed {f : BitVec 48 → Instr} (wf : ∀ t, (f t).wellFormed = true) : GivesWellFormed (readT f) := by
  intro operands js h
  unfold readT at h
  split at h
  · obtain ⟨t, -, rfl⟩ := Option.map_eq_some_iff.mp h
    exact List.forall_mem_singleton.mpr (wf t)
  · cases h

theorem readI_givesWellFormed : GivesWellFormed readI := by
  intro operands js h
  unfold readI at h
  split at h
  · split at h <;> cases h
    rename_i index _ _ _ _ _
    exact List.forall_mem_singleton.mpr (decide_eq_true ((Nat.mod_le _ _).trans (parseIndex_le index)))
  · cases h

theorem readK_givesWellFormed : GivesWellFormed readK := by
  intro operands js h
  unfold readK at h
  split at h
  · split at h <;> cases h
    rename_i index _
    exact List.forall_mem_singleton.mpr (decide_eq_true ((Nat.mod_le _ _).trans (parseIndex_le index)))
  · cases h

/-! ### The mnemonics and the lines -/

theorem vidPulse_wellFormed (p : Setup) : ∀ i ∈ vidPulse p, i.wellFormed = true := by
  rw [vidPulse_eq]
  simp [Instr.wellFormed]

theorem vidSend_wellFormed (p : Setup) (c d : Byte) : ∀ i ∈ vidSend p c d, i.wellFormed = true :=
  List.forall_mem_cons.mpr ⟨rfl, List.forall_mem_cons.mpr ⟨rfl, vidPulse_wellFormed p⟩⟩

theorem audSend_wellFormed (c : Byte) : ∀ i ∈ audSend c, i.wellFormed = true := by
  simp [audSend, Instr.wellFormed]

theorem mnemonicReaders_giveWellFormed (p : Setup) : ∀ e ∈ mnemonicReaders p, GivesWellFormed e.2 := by
  have one {i : Instr} (h : i.wellFormed = true) : ∀ j ∈ [i], j.wellFormed = true := List.forall_mem_singleton.mpr h
  simp only [mnemonicReaders, List.forall_mem_cons]
  exact ⟨readB_givesWellFormed fun _ => one rfl, readN_givesWellFormed (one rfl), readB_givesWellFormed fun _ => one rfl,
    readB_givesWellFormed fun _ => one rfl, readL_givesWellFormed fun _ => rfl, readN_givesWellFormed (one rfl),
    readB_givesWellFormed fun _ => one rfl, readL_givesWellFormed fun _ => rfl, readL_givesWellFormed fun _ => rfl,
    readN_givesWellFormed (one rfl), readL_givesWellFormed fun _ => rfl, readT_givesWellFormed fun _ => rfl,
    readT_givesWellFormed fun _ => rfl, readN_givesWellFormed (one rfl), readN_givesWellFormed (one rfl),
    readN_givesWellFormed (one rfl), readI_givesWellFormed, readK_givesWellFormed,
    readN_givesWellFormed (vidPulse_wellFormed p), readBB_givesWellFormed (vidSend_wellFormed p),
    readB_givesWellFormed audSend_wellFormed, readN_givesWellFormed (one rfl), readN_givesWellFormed (one rfl), nofun⟩

theorem readLine_wellFormed {p : Setup} {line : List Char} {is : List Instr} (h : readLine p line = .ok is) :
    ∀ i ∈ is, i.wellFormed = true := by
  unfold readLine at h
  dsimp only at h
  split at h
  · cases h
    nofun
  · split at h
    · cases h
    · rename_i e found
      split at h <;> cases h
      rename_i reads
      exact mnemonicReaders_giveWellFormed p e (List.mem_of_find?_eq_some found) _ _ reads

/-- Settles O60: every reader gives well-formed operations, and those decode from their words. -/
theorem linesOfTextStandForTransactions : Obligations.LinesOfTextStandForTransactions :=
  fun _ _ _ h i hi => ⟨readLine_wellFormed h i hi, decode_encode (readLine_wellFormed h i hi)⟩

end Sys2Proof.Machine
end
